-- ==== Sys2Proof/Word.lean ====
section
/-!
DEFINITION. The word types of JE8-CORE: bytes, 16-bit words and addresses, and the operand fields of an
instruction word (30_encoding.md R71). All values are unsigned and bit 0 is the least significant bit (00_scope.md R7).
-/

namespace Sys2Proof

/-- An 8-bit value: a general register, a timer, a memory cell, the field `kk`. -/
abbrev Byte := BitVec 8

/-- A 16-bit value: an instruction word, the program counter, the index register, a stack slot. -/
abbrev Word := BitVec 16

/-- A 4-bit field of an instruction word: the group id, the row count `n`. -/
abbrev Nibble := BitVec 4

/-- The number of a general register, `V0` to `VF` (10_state.md R20). -/
abbrev Reg := BitVec 4

/-- A key identifier, 0x0 to 0xF (60_exceptions.md R226). -/
abbrev KeyId := BitVec 4

/-- The 12-bit address field `nnn` of an instruction word. -/
abbrev Addr12 := BitVec 12

end Sys2Proof
end

