-- ==== Sys2Proof/Syntax.lean ====
section
/-!
DEFINITION. The 35 instruction variants of JE8-CORE (30_encoding.md R80), one constructor per row of the opcode table,
with the operands their format names (R72). The ignored low nibble of `SkipEqReg` and `SkipNeReg` is no operand: the
variant does not keep it (R75, R85).
-/

namespace Sys2Proof

/-- One instruction, in the opcode table's order. -/
inductive Instr where
  | clear                                         -- 00E0, R161
  | ret                                           -- 00EE, R103
  | sys (nnn : Addr12)                            -- 0nnn, R106
  | jump (nnn : Addr12)                           -- 1nnn, R101
  | call (nnn : Addr12)                           -- 2nnn, R104
  | skipEqByte (x : Reg) (kk : Byte)              -- 3xkk, R107
  | skipNeByte (x : Reg) (kk : Byte)              -- 4xkk, R108
  | skipEqReg (x y : Reg)                         -- 5xy-, R109
  | loadByte (x : Reg) (kk : Byte)                -- 6xkk, R121
  | addByte (x : Reg) (kk : Byte)                 -- 7xkk, R122
  | move (x y : Reg)                              -- 8xy0, R123
  | or (x y : Reg)                                -- 8xy1, R124
  | and (x y : Reg)                               -- 8xy2, R125
  | xor (x y : Reg)                               -- 8xy3, R126
  | add (x y : Reg)                               -- 8xy4, R127
  | subXY (x y : Reg)                             -- 8xy5, R128
  | shiftRight (x y : Reg)                        -- 8xy6, R129
  | subYX (x y : Reg)                             -- 8xy7, R130
  | shiftLeft (x y : Reg)                         -- 8xyE, R131
  | skipNeReg (x y : Reg)                         -- 9xy-, R110
  | loadI (nnn : Addr12)                          -- Annn, R141
  | jumpV0 (nnn : Addr12)                         -- Bnnn, R105
  | random (x : Reg) (kk : Byte)                  -- Cxkk, R132
  | draw (x y : Reg) (n : Nibble)                 -- Dxyn, R164
  | skipOnKeyPressed (x : Reg)                    -- Ex9E, R171
  | skipOnKeyNotPressed (x : Reg)                 -- ExA1, R172
  | readDelay (x : Reg)                           -- Fx07, R174
  | waitKey (x : Reg)                             -- Fx0A, R173
  | setDelay (x : Reg)                            -- Fx15, R175
  | setSound (x : Reg)                            -- Fx18, R176
  | addI (x : Reg)                                -- Fx1E, R142
  | loadFont (x : Reg)                            -- Fx29, R143
  | bcd (x : Reg)                                 -- Fx33, R144
  | store (x : Reg)                               -- Fx55, R145
  | load (x : Reg)                                -- Fx65, R146
  deriving DecidableEq, Repr

end Sys2Proof
end

