-- ==== Sys2Proof/WellFormed.lean ====
section
/-!
DEFINITION. Which terms of `Instr` are instructions of the machine. Every operand is bounded by its type, so one check
is left: the words 0x00E0 and 0x00EE are `Clear` and `Ret`, so they are no `Sys` (30_encoding.md R74, R80, R81).
-/

namespace Sys2Proof

/-- `i` is the reading of some instruction word. -/
def Instr.wellFormed : Instr → Bool
  | .sys nnn => nnn != 0x0E0 && nnn != 0x0EE
  | .clear | .ret | .jump _ | .call _ => true
  | .skipEqByte _ _ | .skipNeByte _ _ | .skipEqReg _ _ | .skipNeReg _ _ => true
  | .loadByte _ _ | .addByte _ _ | .move _ _ => true
  | .or _ _ | .and _ _ | .xor _ _ | .add _ _ => true
  | .subXY _ _ | .shiftRight _ _ | .subYX _ _ | .shiftLeft _ _ => true
  | .loadI _ | .jumpV0 _ | .random _ _ | .draw _ _ _ => true
  | .skipOnKeyPressed _ | .skipOnKeyNotPressed _ | .waitKey _ => true
  | .readDelay _ | .setDelay _ | .setSound _ => true
  | .addI _ | .loadFont _ | .bcd _ | .store _ | .load _ => true

end Sys2Proof
end

