-- ==== Sys2Proof/Decode.lean ====
section
/-!
DEFINITION. The opcode decoder and an encoder (30_encoding.md). `decode` is the spec's `Decode(w)` (R74), total on every
16-bit word; `decodeBytes` reads an instruction from bytes, the high byte first (20_memory.md R52, R70), and rejects by name;
`encode` writes the word of an instruction from the table of R80.
-/

namespace Sys2Proof

/-! The fields of R71; all are extracted from every word. -/

/-- The group id `g`, `w[15:12]`. -/
def fieldGroup (w : Word) : Nibble := w.extractLsb' 12 4

/-- The selector `x`, `w[11:8]`. -/
def fieldX (w : Word) : Reg := w.extractLsb' 8 4

/-- The selector `y`, `w[7:4]`. -/
def fieldY (w : Word) : Reg := w.extractLsb' 4 4

/-- The nibble `n`, `w[3:0]`. -/
def fieldN (w : Word) : Nibble := w.extractLsb' 0 4

/-- The byte `kk`, `w[7:0]`. -/
def fieldKK (w : Word) : Byte := w.extractLsb' 0 8

/-- The address `nnn`, `w[11:0]`. -/
def fieldNNN (w : Word) : Addr12 := w.extractLsb' 0 12

/-- Group 0x8, discriminated by the low nibble (R82). -/
def decodeGroup8 (x y : Reg) (n : Nibble) : Option Instr :=
  match n with
  | 0x0 => some (.move x y)
  | 0x1 => some (.or x y)
  | 0x2 => some (.and x y)
  | 0x3 => some (.xor x y)
  | 0x4 => some (.add x y)
  | 0x5 => some (.subXY x y)
  | 0x6 => some (.shiftRight x y)
  | 0x7 => some (.subYX x y)
  | 0xE => some (.shiftLeft x y)
  | _ => none

/-- Group 0xE, discriminated by the low byte (R83). -/
def decodeGroupE (x : Reg) (kk : Byte) : Option Instr :=
  match kk with
  | 0x9E => some (.skipOnKeyPressed x)
  | 0xA1 => some (.skipOnKeyNotPressed x)
  | _ => none

/-- Group 0xF, discriminated by the low byte (R84). -/
def decodeGroupF (x : Reg) (kk : Byte) : Option Instr :=
  match kk with
  | 0x07 => some (.readDelay x)
  | 0x0A => some (.waitKey x)
  | 0x15 => some (.setDelay x)
  | 0x18 => some (.setSound x)
  | 0x1E => some (.addI x)
  | 0x29 => some (.loadFont x)
  | 0x33 => some (.bcd x)
  | 0x55 => some (.store x)
  | 0x65 => some (.load x)
  | _ => none

/-- The dispatch on the group id (R74). -/
def decodeGroup (g : Nibble) (w : Word) : Option Instr :=
  match g with
  | 0x0 => some (.sys (fieldNNN w))
  | 0x1 => some (.jump (fieldNNN w))
  | 0x2 => some (.call (fieldNNN w))
  | 0x3 => some (.skipEqByte (fieldX w) (fieldKK w))
  | 0x4 => some (.skipNeByte (fieldX w) (fieldKK w))
  | 0x5 => some (.skipEqReg (fieldX w) (fieldY w))       -- n ignored, R85
  | 0x6 => some (.loadByte (fieldX w) (fieldKK w))
  | 0x7 => some (.addByte (fieldX w) (fieldKK w))
  | 0x8 => decodeGroup8 (fieldX w) (fieldY w) (fieldN w)
  | 0x9 => some (.skipNeReg (fieldX w) (fieldY w))       -- n ignored, R85
  | 0xA => some (.loadI (fieldNNN w))
  | 0xB => some (.jumpV0 (fieldNNN w))
  | 0xC => some (.random (fieldX w) (fieldKK w))
  | 0xD => some (.draw (fieldX w) (fieldY w) (fieldN w))
  | 0xE => decodeGroupE (fieldX w) (fieldKK w)
  | _ => decodeGroupF (fieldX w) (fieldKK w)             -- 0xF, the one value left

/-- `Decode(w)` (R74): the two literal words first, then the group id. `none` is an unrecognised opcode (R86). -/
def decode (w : Word) : Option Instr :=
  if w = 0x00E0 then some .clear
  else if w = 0x00EE then some .ret
  else decodeGroup (fieldGroup w) w

/-- Why bytes are no instruction. -/
inductive DecodeReject where
  /-- The word is an unassigned encoding (R86); the machine logs it and advances, it does not stop. -/
  | unrecognised (w : Word)
  /-- Fewer than two bytes: no word (R70). -/
  | truncated
  deriving DecidableEq, Repr

/-- An instruction word is two bytes, the one at the lower address in the high half (20_memory.md R52). -/
def wordOfBytes (hi lo : Byte) : Word := hi ++ lo

/-- The decoder on any bytes: the instruction and the bytes after it, or why there is none. -/
def decodeBytes : List Byte → Except DecodeReject (Instr × List Byte)
  | hi :: lo :: rest =>
    match decode (wordOfBytes hi lo) with
    | some i => .ok (i, rest)
    | none => .error (.unrecognised (wordOfBytes hi lo))
  | _ => .error .truncated

/-! The encoder, format by format (R72). -/

/-- Format NNN: `g / nnn`. -/
def wordNNN (g : Nibble) (nnn : Addr12) : Word := g ++ nnn

/-- Format XKK: `g / x / kk`. -/
def wordXKK (g : Nibble) (x : Reg) (kk : Byte) : Word := g ++ x ++ kk

/-- Formats XY and XYN: `g / x / y / n`. -/
def wordXYN (g : Nibble) (x y : Reg) (n : Nibble) : Word := g ++ x ++ y ++ n

/-- The word of an instruction (R80); an ignored nibble is 0, the canonical spelling (R85). -/
def encode : Instr → Word
  | .clear => 0x00E0
  | .ret => 0x00EE
  | .sys nnn => wordNNN 0x0 nnn
  | .jump nnn => wordNNN 0x1 nnn
  | .call nnn => wordNNN 0x2 nnn
  | .skipEqByte x kk => wordXKK 0x3 x kk
  | .skipNeByte x kk => wordXKK 0x4 x kk
  | .skipEqReg x y => wordXYN 0x5 x y 0x0
  | .loadByte x kk => wordXKK 0x6 x kk
  | .addByte x kk => wordXKK 0x7 x kk
  | .move x y => wordXYN 0x8 x y 0x0
  | .or x y => wordXYN 0x8 x y 0x1
  | .and x y => wordXYN 0x8 x y 0x2
  | .xor x y => wordXYN 0x8 x y 0x3
  | .add x y => wordXYN 0x8 x y 0x4
  | .subXY x y => wordXYN 0x8 x y 0x5
  | .shiftRight x y => wordXYN 0x8 x y 0x6
  | .subYX x y => wordXYN 0x8 x y 0x7
  | .shiftLeft x y => wordXYN 0x8 x y 0xE
  | .skipNeReg x y => wordXYN 0x9 x y 0x0
  | .loadI nnn => wordNNN 0xA nnn
  | .jumpV0 nnn => wordNNN 0xB nnn
  | .random x kk => wordXKK 0xC x kk
  | .draw x y n => wordXYN 0xD x y n
  | .skipOnKeyPressed x => wordXKK 0xE x 0x9E
  | .skipOnKeyNotPressed x => wordXKK 0xE x 0xA1
  | .readDelay x => wordXKK 0xF x 0x07
  | .waitKey x => wordXKK 0xF x 0x0A
  | .setDelay x => wordXKK 0xF x 0x15
  | .setSound x => wordXKK 0xF x 0x18
  | .addI x => wordXKK 0xF x 0x1E
  | .loadFont x => wordXKK 0xF x 0x29
  | .bcd x => wordXKK 0xF x 0x33
  | .store x => wordXKK 0xF x 0x55
  | .load x => wordXKK 0xF x 0x65

/-- The two bytes of a word as memory holds them, the high byte first (R70). -/
def bytesOfWord (w : Word) : Byte × Byte := (w.extractLsb' 8 8, w.extractLsb' 0 8)

/-- The word whose bits the opcode table numbers as `w`, the bits from `nbits` up being zero. An instruction has one
16-bit word, so bit 0 of `w` is bit 0 of the word. -/
def tableWord (nbits w : Nat) : Word := BitVec.ofNat 16 (w % 2 ^ nbits)

/-- What the decoder reads from an instruction whose bits the opcode table numbers as `w`: the word is laid out in
memory order and given to `decodeBytes`. -/
def decodeTableWord (nbits w : Nat) : Option Instr :=
  match decodeBytes [(bytesOfWord (tableWord nbits w)).1, (bytesOfWord (tableWord nbits w)).2] with
  | .ok (i, _) => some i
  | .error _ => none

end Sys2Proof
end

