-- ==== Sys2Proof/Machine/State.lean ====
section
/-!
DEFINITION. The state of JE8-CORE (10_state.md), its reset values (R40), and why a step can stop.
-/

namespace Sys2Proof.Machine

/-- `Mem` (R34, R50): the cells that differ from the boot image of 70_reset_and_hazards.md R253, by strictly rising address.
What an unlisted address reads as is `bootByte` (Machine/Boot.lean); the form is `Memory.wf` (Machine/Ops.lean). -/
abbrev Memory := List Host.Cell

/-- `Disp` (R33): 32 rows of 64 one-bit pixels, `disp[y][x]`. -/
abbrev Display := Vector (Vector Bool 64) 32

/-- One record `(x, y, value)` of a display batch (60_exceptions.md R223); `value` is the pixel's new state. -/
structure PixelUpdate where
  x : Fin 64
  y : Fin 32
  value : Bool
  deriving DecidableEq, Repr

/-- One emission on the display channel (60_exceptions.md R222). -/
abbrev Batch := List PixelUpdate

/-- `FAULT_CAUSE` (60_exceptions.md R202), in the order of the codes 0 to 7. -/
inductive FaultCause where
  | none
  | stackOverflow
  | stackUnderflow
  | fetchOutOfRange
  | memOutOfRange
  | indexOverflow
  | keyOutOfRange
  | timingLost
  deriving DecidableEq, Repr

/-- What a diagnostic record is about (60_exceptions.md R212). -/
inductive DiagKind where
  | decodeFailure
  | fatal (cause : FaultCause)
  deriving DecidableEq, Repr

/-- One record `(kind, pc, word)` of the diagnostic stream (60_exceptions.md R212). -/
structure DiagRecord where
  kind : DiagKind
  pc : Word
  word : Word
  deriving DecidableEq, Repr

/-- A step of one of the agents of 00_scope.md R10. -/
inductive AgentStep where
  /-- The CORE polls (60_exceptions.md R217). -/
  | poll
  /-- The Timing Source produces a tick (R215). -/
  | tick
  /-- The Timing Source disconnects (R218). -/
  | disconnect
  /-- The input collaborator presses a key (R225). -/
  | press (k : KeyId)
  /-- The display consumer takes a batch (R224). -/
  | drain
  /-- The host resets the machine with a program image (70_reset_and_hazards.md R250). -/
  | reset (rom : List Byte)
  deriving DecidableEq, Repr

/-- Everything the spec gives the machine, and two fields of the model's own, `rndDraws` and `agenda`. -/
structure State where
  /-- `V[0..15]` (R20). -/
  v : Vector Byte 16
  /-- The index register `I` (R29). -/
  i : Word
  /-- The program counter (R23). -/
  pc : Word
  /-- `SP`, the number of call-stack slots in use (R30). -/
  sp : Fin 17
  /-- `Stack[0..15]` (R30). -/
  stack : Vector Word 16
  /-- The delay timer `DT` (R31). -/
  dt : Byte
  /-- The sound timer `ST` (R31). -/
  st : Byte
  /-- The key counters `K[0..15]` (R32). -/
  keys : Vector Nat 16
  /-- The display buffer (R33). -/
  disp : Display
  /-- The memory array (R34). -/
  mem : Memory
  /-- `HALTED` (R36). -/
  halted : Bool
  /-- `FAULT_CAUSE` (R36). -/
  faultCause : FaultCause
  /-- `FAULT_PC` (R36). -/
  faultPc : Word
  /-- `FAULT_WORD` (R36). -/
  faultWord : Word
  /-- `TICK_PENDING` (R37). -/
  tickPending : Bool
  /-- `TICK_LOST` (R37). -/
  tickLost : Bool
  /-- `TDIV`, observed ticks since the last timer decrement (R37). -/
  tdiv : Nat
  /-- The display channel: emitted batches not yet taken, oldest first (R38, 60_exceptions.md R222). -/
  channel : List Batch
  /-- The diagnostic stream, oldest first (R38, 60_exceptions.md R212). -/
  diag : List DiagRecord
  /-- The model's own: how many draws of the random input were made (log entry 3). -/
  rndDraws : Nat
  /-- The model's own: the agent steps still to come, the next one first (log entry 1). -/
  agenda : List AgentStep
  deriving DecidableEq, Repr

/-- Why a step could stop with a fault: nothing. Every abnormal condition of the spec is the halt state, whose entry
60_exceptions.md R204 describes, so it is a next state (log entry 6). No one raises a fault. -/
inductive Fault where
  deriving DecidableEq, Repr

/-- Why a step is refused. -/
inductive Refusal where
  /-- Raised by an arm of `exec` whose instruction has no meaning yet: no arm is left so. Safe. -/
  | notModelled (mnemonic : String)
  /-- Raised by the agent step `reset rom` for a ROM above 3584 bytes: "the reset is refused and no state is defined for
  it" (70_reset_and_hazards.md R255). No instruction raises it. Safe. -/
  | romTooLong
  deriving DecidableEq, Repr

/-- The machine after reset with the empty ROM, which is a launch (70_reset_and_hazards.md R255): the values of R40, and a
memory that is its boot image. -/
def State.reset : State where
  v := Vector.replicate 16 0x00
  i := 0x0000
  pc := 0x0200
  sp := 0
  stack := Vector.replicate 16 0x0000
  dt := 0x00
  st := 0x00
  keys := Vector.replicate 16 0
  disp := Vector.replicate 32 (Vector.replicate 64 false)
  mem := []
  halted := false
  faultCause := .none
  faultPc := 0x0000
  faultWord := 0x0000
  tickPending := false
  tickLost := false
  tdiv := 0
  channel := []
  diag := []
  rndDraws := 0
  agenda := []

end Sys2Proof.Machine
end

