-- ==== Sys2Proof/Machine/Boot.lean ====
section
/-!
DEFINITION. The boot image (70_reset_and_hazards.md section 2): the font table, where it sits, and what a byte of memory
holds at reset without a ROM.
-/

namespace Sys2Proof.Machine

/-- `FONT_BASE`, the address of byte 0 of the font (00_scope.md R6; log entry 5). -/
def fontBase : Nat := 0x000

/-- The font table (R254): glyph `d` is bytes `5*d .. 5*d+4`, top row first, the pixels in the high four bits. -/
def fontTable : List Byte :=
  [0xF0, 0x90, 0x90, 0x90, 0xF0,      -- 0
   0x20, 0x60, 0x20, 0x20, 0x70,      -- 1
   0xF0, 0x10, 0xF0, 0x80, 0xF0,      -- 2
   0xF0, 0x10, 0xF0, 0x10, 0xF0,      -- 3
   0x90, 0x90, 0xF0, 0x10, 0x10,      -- 4
   0xF0, 0x80, 0xF0, 0x10, 0xF0,      -- 5
   0xF0, 0x80, 0xF0, 0x90, 0xF0,      -- 6
   0xF0, 0x10, 0x20, 0x40, 0x40] ++   -- 7
  [0xF0, 0x90, 0xF0, 0x90, 0xF0,      -- 8
   0xF0, 0x90, 0xF0, 0x10, 0xF0,      -- 9
   0xF0, 0x90, 0xF0, 0x90, 0x90,      -- A
   0xE0, 0x90, 0xE0, 0x90, 0xE0,      -- B
   0xF0, 0x80, 0x80, 0x80, 0xF0,      -- C
   0xE0, 0x90, 0x90, 0x90, 0xE0,      -- D
   0xF0, 0x80, 0xF0, 0x80, 0xF0,      -- E
   0xF0, 0x80, 0xF0, 0x80, 0x80]      -- F

/-- What address `a` holds at reset without a ROM (R253): the font, and 0x00 elsewhere. It is what an unlisted address of
`Memory` reads as. -/
def bootByte (a : Nat) : Byte :=
  if fontBase ≤ a then fontTable.getD (a - fontBase) 0x00 else 0x00

/-- Where the program image is copied to (R253, R255). -/
def romBase : Nat := 0x200

/-- The largest program image, 4096 − 512 bytes (R255). -/
def romMax : Nat := 3584

end Sys2Proof.Machine
end

