-- ==== Sys2Proof/Machine/Ops.lean ====
section
/-!
DEFINITION. The named operations over memory, registers, the call stack, the key counters, the display and the outputs,
the next-PC behaviours, and entering the halt state, which is this machine's one way of taking an exception.
-/

namespace Sys2Proof.Machine

/-! ### Memory (20_memory.md) -/

/-- The highest address of `Mem` (20_memory.md R50). -/
def memTop : Nat := 0xFFF

/-- The byte at an address (20_memory.md R57). An address above 0xFFF is never read: every rule checks its range first. -/
def Memory.read : Memory → Nat → Byte
  | [], a => bootByte a
  | (k, b) :: m, a => if a = k then b else Memory.read m a

/-- Drop the cell of address `a`: it reads as unlisted. -/
def Memory.eraseCell (m : Memory) (a : Nat) : Memory := m.filter fun c => c.1 != a

/-- List the cell `(a, b)` before the first cell of a higher address. -/
def Memory.insertCell : Memory → Nat → Byte → Memory
  | [], a, b => [(a, b)]
  | (k, c) :: m, a, b => if a < k then (a, b) :: (k, c) :: m else (k, c) :: Memory.insertCell m a b

/-- The cell of address `a` becomes `b`, listed only when `b` is not what an unlisted address reads as. -/
def Memory.put (m : Memory) (a : Nat) (b : Byte) : Memory :=
  if b = bootByte a then Memory.eraseCell m a else Memory.insertCell (Memory.eraseCell m a) a b

/-- Store one byte (00_scope.md R8 `MemWrite`). There is no cell above 0xFFF, and no rule stores there. -/
def Memory.write (m : Memory) (a : Nat) (b : Byte) : Memory :=
  if a ≤ memTop then Memory.put m a b else m

/-- Store bytes at ascending addresses from `a` (20_memory.md R52). -/
def Memory.writeList (m : Memory) (a : Nat) : List Byte → Memory
  | [] => m
  | b :: bs => Memory.writeList (Memory.write m a b) (a + 1) bs

/-- The cells from address `lo` on are in canonical form. -/
def Memory.wfFrom (lo : Nat) : Memory → Bool
  | [] => true
  | (k, b) :: m => decide (lo ≤ k) && decide (k ≤ memTop) && decide (b ≠ bootByte k) && Memory.wfFrom (k + 1) m

/-- The canonical form: addresses strictly rising and at most 0xFFF, no entry equal to what it reads as unlisted. -/
def Memory.wf (m : Memory) : Bool := Memory.wfFrom 0 m

/-- The byte at an address of the machine's memory. -/
def State.readMem (s : State) (a : Nat) : Byte := Memory.read s.mem a

/-- Store bytes from address `a` on. -/
def State.storeBytes (s : State) (a : Nat) (bs : List Byte) : State := { s with mem := Memory.writeList s.mem a bs }

/-- The word the fetch reads: the byte at `pc` in the high half, the byte at `pc + 1` in the low (20_memory.md R52, R53). -/
def State.fetchedWord (s : State) : Word := wordOfBytes (s.readMem s.pc.toNat) (s.readMem (s.pc.toNat + 1))

/-! ### Registers (10_state.md) -/

/-- The number of `VF` (R21). -/
def vf : Reg := 0xF

/-- Read `V[r]` (00_scope.md R8). -/
def State.getV (s : State) (r : Reg) : Byte := s.v[r.toNat]'r.isLt

/-- Write `V[r]`. No register is hardwired (R20). -/
def State.setV (s : State) (r : Reg) (b : Byte) : State := { s with v := s.v.set r.toNat b r.isLt }

/-- Write the index register. -/
def State.setI (s : State) (a : Word) : State := { s with i := a }

/-- Write the delay timer. -/
def State.setDT (s : State) (b : Byte) : State := { s with dt := b }

/-- Write the sound timer. -/
def State.setST (s : State) (b : Byte) : State := { s with st := b }

/-- Write a result to `V[r]` and then a flag to `VF`, which stands when `r` is 15 (R21, 41_alu.md R120). -/
def State.setVWithFlag (s : State) (r : Reg) (result flag : Byte) : State := (s.setV r result).setV vf flag

/-! ### The program counter (10_state.md R25) -/

/-- An instruction's next-PC behaviour. -/
inductive NextPc where
  | advance
  | skip
  | jump (target : Word)
  | stall
  deriving DecidableEq, Repr

/-- Apply a next-PC behaviour. -/
def State.applyNext (s : State) : NextPc → State
  | .advance => { s with pc := s.pc + 2 }
  | .skip => { s with pc := s.pc + 4 }
  | .jump t => { s with pc := t }
  | .stall => s

/-- The choice of a skip instruction. -/
def skipIf (c : Bool) : NextPc := if c then .skip else .advance

/-! ### The call stack (10_state.md R30) -/

/-- Push `a`: write `Stack[SP]`, then increment `SP`. A full stack has no slot for it (`Call` checks first). -/
def State.push (s : State) (a : Word) : State :=
  if h : s.sp.val < 16 then
    { s with stack := s.stack.set s.sp.val a h, sp := ⟨s.sp.val + 1, Nat.succ_lt_succ h⟩ }
  else s

/-- The slot a pop reads, `Stack[SP - 1]`; on an empty stack there is none (`Ret` checks first). -/
def State.topOfStack (s : State) : Option Word :=
  if h : 0 < s.sp.val then some (s.stack[s.sp.val - 1]'(by have := s.sp.isLt; omega)) else none

/-- Drop the top slot from the stack; its content stays in place. -/
def State.dropTop (s : State) : State := { s with sp := ⟨s.sp.val - 1, by have := s.sp.isLt; omega⟩ }

/-! ### Key counters (10_state.md R32) -/

/-- Read `K[k]`. -/
def State.key (s : State) (k : KeyId) : Nat := s.keys[k.toNat]'k.isLt

/-- Write `K[k]`. -/
def State.setKey (s : State) (k : KeyId) (n : Nat) : State := { s with keys := s.keys.set k.toNat n k.isLt }

/-- Use up one press of key `k` (44_keys_timers.md R170). -/
def State.consumeKey (s : State) (k : KeyId) : State := s.setKey k (s.key k - 1)

/-- The lowest pressed key (44_keys_timers.md R173). -/
def State.firstPressed (s : State) : Option KeyId :=
  ((List.range 16).map (BitVec.ofNat 4)).find? fun k => decide (0 < s.key k)

/-! ### The display and the outputs -/

/-- `Disp[y][x]` (10_state.md R33). -/
def Display.pixel (d : Display) (x : Fin 64) (y : Fin 32) : Bool := d[y.val][x.val]

/-- `Disp[y][x] <- b`. -/
def Display.setPixel (d : Display) (x : Fin 64) (y : Fin 32) (b : Bool) : Display :=
  d.set y.val (d[y.val].set x.val b)

/-- Write the display buffer. -/
def State.setDisp (s : State) (d : Display) : State := { s with disp := d }

/-- `Emit(batch)` (60_exceptions.md R222): append to an unbounded sequence, never blocking. -/
def State.emit (s : State) (b : Batch) : State := { s with channel := s.channel ++ [b] }

/-- `Diag(kind, pc, w)` (60_exceptions.md R212). -/
def State.log (s : State) (r : DiagRecord) : State := { s with diag := s.diag ++ [r] }

/-- One draw of the random input made (60_exceptions.md R228). -/
def State.countDraw (s : State) : State := { s with rndDraws := s.rndDraws + 1 }

/-! ### Entering the halt state (60_exceptions.md R203, R204) -/

/-- `raise Fatal(c)` in the cycle of the instruction at `pc` whose fetched word is `w`: the record of R204 and nothing else. -/
def State.raiseFatal (s : State) (c : FaultCause) (w : Word) : State :=
  { s with
    halted := true
    faultCause := c
    faultPc := s.pc
    faultWord := w
    diag := s.diag ++ [⟨.fatal c, s.pc, w⟩] }

/-- A fatal condition of an executing instruction, whose word is the one at `pc` (log entry 7). There is no return from the
halt state (R211); `resetWith` (Machine/Agents.lean) is the one way out. -/
def fatal (c : FaultCause) (s : State) : Host.Outcome State Fault Refusal := .next (s.raiseFatal c s.fetchedWord)

/-! ### Placing an instruction -/

/-- `s` with the bytes of `w` where the next cycle fetches, and that cycle the very next step: no agent step is scheduled
before it, a tick is pending and the CORE is not halted. -/
def State.placeWord (s : State) (w : Word) : State :=
  { s.storeBytes s.pc.toNat [(bytesOfWord w).1, (bytesOfWord w).2] with
    halted := false
    tickPending := true
    agenda := [] }

end Sys2Proof.Machine
end

