-- ==== Sys2Proof/Machine/Agents.lean ====
section
/-!
DEFINITION. The steps of the agents other than the CORE (00_scope.md R10): the Timing Source, the input collaborator, the
display consumer, and the host's reset.
-/

namespace Sys2Proof.Machine

/-- `tick` (60_exceptions.md R215): a tick already pending is merged. A Timing Source that has disconnected produces no tick
(R218; log entry 12). -/
def State.tick (s : State) : State := { s with tickPending := s.tickPending || !s.tickLost }

/-- `disconnect` (R218). -/
def State.disconnect (s : State) : State := { s with tickLost := true }

/-- `press(k)` (R225), at any time. -/
def State.press (s : State) (k : KeyId) : State := s.setKey k (s.key k + 1)

/-- The consumer takes the oldest batch, if there is one (R224). -/
def State.drain (s : State) : State := { s with channel := s.channel.tail }

/-- `reset(ROM)` (70_reset_and_hazards.md R250, R251, R253): the values of 10_state.md R40 and the ROM copied verbatim to 0x200.
A ROM above the cap is refused (R255). The model's own fields go on: what is scheduled, and the count of draws (log entry 18). -/
def State.resetWith (s : State) (rom : List Byte) : Host.Outcome State Fault Refusal :=
  if rom.length ≤ romMax then
    .next { State.reset with
      mem := Memory.writeList [] romBase rom
      rndDraws := s.rndDraws
      agenda := s.agenda }
  else .refused .romTooLong

end Sys2Proof.Machine
end

