-- ==== Sys2Proof/Config.lean ====
section
/-!
DEFINITION. What the spec leaves open: constants with no body, so a theorem about the model holds whatever they are.
-/

namespace Sys2Proof

/-- One less than `TIMER_DIV` (00_scope.md R6: OPEN, a positive integer). No value is fixed (log entry 4). -/
opaque Config.timerDivPred : Nat

/-- `TIMER_DIV`, observed ticks per decrement of `DT` and `ST` (60_exceptions.md R219): any positive integer. -/
def Config.timerDiv : Nat := Config.timerDivPred + 1

/-- The random input (60_exceptions.md R228): `Config.rnd n` is the n-th draw, a FREE VALUE of which nothing is known
(log entry 3). -/
opaque Config.rnd : Nat → Byte

end Sys2Proof
end

