-- ==== Sys2Proof/Machine/Operands.lean ====
section
/-!
DEFINITION. The operand forms: immediates (30_encoding.md R73), data addressed through `I` (42_index_memory.md R140) with its
range check (20_memory.md R55), register blocks, and a register's content as a key identifier.
-/

namespace Sys2Proof.Machine

/-- `zext_16(nnn)` (R73). -/
def zext12 (nnn : Addr12) : Word := nnn.setWidth 16

/-- `zext_16(V)` of a byte. -/
def zext8 (b : Byte) : Word := b.setWidth 16

/-- The address of byte `k` of a transfer: `I + k`, a natural number, reduced modulo nothing (R140). -/
def State.dataAddr (s : State) (k : Nat) : Nat := s.i.toNat + k

/-- A transfer of `n` bytes from `I` leaves memory: `n >= 1` and `I + n - 1 > 0xFFF` (20_memory.md R55). -/
def State.transferFaults (s : State) (n : Nat) : Bool := decide (1 ≤ n) && decide (memTop < s.i.toNat + n - 1)

/-- The first `n` registers, `V0` first: what `Store` writes. -/
def State.regBlock (s : State) (n : Nat) : List Byte := (List.range n).map fun k => s.getV (BitVec.ofNat 4 k)

/-- The registers after `Load` has read `n` bytes from `I` into `V0`, `V1`, ...; every read sees the memory before. -/
def State.loadBlock (s : State) (n : Nat) : State :=
  (List.range n).foldl (fun t k => t.setV (BitVec.ofNat 4 k) (s.readMem (s.dataAddr k))) s

/-- `I` after `n` bytes were moved (42_index_memory.md R140); never above 0x1000 after an admitted transfer. -/
def State.indexAfter (s : State) (n : Nat) : Word := BitVec.ofNat 16 (s.i.toNat + n)

/-- `V[x]` as a key identifier, if it is one (44_keys_timers.md R171). -/
def State.keyOperand (s : State) (x : Reg) : Option KeyId :=
  if 0xF < (s.getV x).toNat then none else some ((s.getV x).setWidth 4)

/-- The address of the glyph of the digit `d`, the whole byte used unmasked (42_index_memory.md R143). -/
def glyphAddr (d : Byte) : Word := BitVec.ofNat 16 (fontBase + 5 * d.toNat)

/-- The three decimal digits of a byte, hundreds first (42_index_memory.md R144). -/
def bcdDigits (v : Byte) : List Byte :=
  [BitVec.ofNat 8 (v.toNat / 100), BitVec.ofNat 8 (v.toNat / 10 % 10), BitVec.ofNat 8 (v.toNat % 10)]

end Sys2Proof.Machine
end

