-- ==== Sys2Proof/Machine/Flags.lean ====
section
/-!
DEFINITION. The results and flags of the arithmetic and shift instructions (41_alu.md R127 to R131). `VF` is the only flag
(10_state.md R28) and receives 0 or 1.
-/

namespace Sys2Proof.Machine

/-- A flag as the byte written to `VF`. -/
def flagByte (c : Bool) : Byte := if c then 0x01 else 0x00

/-- `s mod 256` for the sum of R127. -/
def sum8 (a b : Byte) : Byte := BitVec.ofNat 8 (a.toNat + b.toNat)

/-- The carry of R127: 1 iff the unsigned sum exceeds 255. -/
def carryOf (a b : Byte) : Bool := decide (255 < a.toNat + b.toNat)

/-- `(a - b) mod 256` (R128, R130). -/
def diff8 (a b : Byte) : Byte := BitVec.ofNat 8 (a.toNat + 256 - b.toNat)

/-- Not-borrow (R128, R130): 1 iff the minuend `a` is at least the subtrahend `b`. -/
def notBorrow (a b : Byte) : Bool := decide (b.toNat ≤ a.toNat)

/-- `b >> 1` (R129). -/
def shr1 (b : Byte) : Byte := b >>> 1

/-- `(b << 1) mod 256` (R131). -/
def shl1 (b : Byte) : Byte := b <<< 1

/-- The bit a right shift drops, `b[0]` (R129). -/
def lowBit (b : Byte) : Bool := b.getLsbD 0

/-- The bit a left shift drops, `b[7]` (R131). -/
def highBit (b : Byte) : Bool := b.getLsbD 7

end Sys2Proof.Machine
end

