-- ==== Sys2Proof/Machine/Alu.lean ====
section
/-!
DEFINITION. Register load, arithmetic, logic, shift and random instructions (41_alu.md). All operand reads precede all
writes; `V[x]` is written first and `VF` last (R120). None raises a fault and every one advances.
-/

namespace Sys2Proof.Machine

/-- Write one register and advance: the instructions that write no flag. -/
def writeReg (x : Reg) (b : Byte) (s : State) : Host.Outcome State Fault Refusal := .next ((s.setV x b).applyNext .advance)

/-- Write one register, then the flag, and advance: the five flag-writing instructions of R21. -/
def writeRegFlag (x : Reg) (b : Byte) (c : Bool) (s : State) : Host.Outcome State Fault Refusal :=
  .next ((s.setVWithFlag x b (flagByte c)).applyNext .advance)

/-- `LoadByte(x, kk)` (R121). -/
def execLoadByte (x : Reg) (kk : Byte) (s : State) : Host.Outcome State Fault Refusal := writeReg x kk s

/-- `AddByte(x, kk)` (R122): the carry is discarded. -/
def execAddByte (x : Reg) (kk : Byte) (s : State) : Host.Outcome State Fault Refusal := writeReg x (sum8 (s.getV x) kk) s

/-- `Move(x, y)` (R123). -/
def execMove (x y : Reg) (s : State) : Host.Outcome State Fault Refusal := writeReg x (s.getV y) s

/-- `Or(x, y)` (R124). -/
def execOr (x y : Reg) (s : State) : Host.Outcome State Fault Refusal := writeReg x (s.getV x ||| s.getV y) s

/-- `And(x, y)` (R125). -/
def execAnd (x y : Reg) (s : State) : Host.Outcome State Fault Refusal := writeReg x (s.getV x &&& s.getV y) s

/-- `Xor(x, y)` (R126). -/
def execXor (x y : Reg) (s : State) : Host.Outcome State Fault Refusal := writeReg x (s.getV x ^^^ s.getV y) s

/-- `Add(x, y)` (R127). -/
def execAdd (x y : Reg) (s : State) : Host.Outcome State Fault Refusal :=
  writeRegFlag x (sum8 (s.getV x) (s.getV y)) (carryOf (s.getV x) (s.getV y)) s

/-- `SubXY(x, y)` (R128): `V[x] - V[y]`. -/
def execSubXY (x y : Reg) (s : State) : Host.Outcome State Fault Refusal :=
  writeRegFlag x (diff8 (s.getV x) (s.getV y)) (notBorrow (s.getV x) (s.getV y)) s

/-- `ShiftRight(x, y)` (R129): the source is `V[y]`. -/
def execShiftRight (x y : Reg) (s : State) : Host.Outcome State Fault Refusal :=
  writeRegFlag x (shr1 (s.getV y)) (lowBit (s.getV y)) s

/-- `SubYX(x, y)` (R130): `V[y] - V[x]`, still into `V[x]`. -/
def execSubYX (x y : Reg) (s : State) : Host.Outcome State Fault Refusal :=
  writeRegFlag x (diff8 (s.getV y) (s.getV x)) (notBorrow (s.getV y) (s.getV x)) s

/-- `ShiftLeft(x, y)` (R131): the source is `V[y]`. -/
def execShiftLeft (x y : Reg) (s : State) : Host.Outcome State Fault Refusal :=
  writeRegFlag x (shl1 (s.getV y)) (highBit (s.getV y)) s

/-- `Random(x, kk)` (R132): a fresh draw of the free random input (60_exceptions.md R228; log entry 3), masked. -/
def execRandom (x : Reg) (kk : Byte) (s : State) : Host.Outcome State Fault Refusal :=
  writeReg x (Sys2Proof.Config.rnd s.rndDraws &&& kk) s.countDraw

end Sys2Proof.Machine
end

