-- ==== Sys2Proof/Machine/DisplayInstr.lean ====
section
/-!
DEFINITION. Display instructions and what each puts on the display channel (43_display.md): exactly one batch per execution
(R160).
-/

namespace Sys2Proof.Machine

/-- The blank display. -/
def Display.blank : Display := Vector.replicate 32 (Vector.replicate 64 false)

/-- The batch of `Clear` (R161): one record for every pixel, row by row, each 0. -/
def clearBatch : Batch :=
  (List.range 32).flatMap fun py => (List.range 64).map fun px => ⟨Fin.ofNat 64 px, Fin.ofNat 32 py, false⟩

/-- `Clear` (R161). -/
def execClear (s : State) : Host.Outcome State Fault Refusal :=
  .next (((s.setDisp Display.blank).emit clearBatch).applyNext .advance)

/-- The pixels under the 1 bits of one sprite row, left to right: column `col` is bit `7 - col` (R162), and each pixel wraps by
itself (R163). -/
def rowPixels (vx vy : Byte) (row : Nat) (bits : Byte) : List (Fin 64 × Fin 32) :=
  ((List.range 8).filter fun col => bits.getLsbD (7 - col)).map fun col =>
    (Fin.ofNat 64 (vx.toNat + col), Fin.ofNat 32 (vy.toNat + row))

/-- The pixels under the 1 bits of the `n`-row sprite at `I`, in sprite order (R165). -/
def State.spritePixels (s : State) (vx vy : Byte) (n : Nat) : List (Fin 64 × Fin 32) :=
  (List.range n).flatMap fun row => rowPixels vx vy row (s.readMem (s.dataAddr row))

/-- What `Draw` has done so far. -/
structure DrawResult where
  disp : Display
  collision : Bool
  batch : Batch
  deriving DecidableEq, Repr

/-- Toggle one pixel: a lit pixel that goes dark is a collision, and the batch records the new value (R164). -/
def xorPixel (r : DrawResult) (p : Fin 64 × Fin 32) : DrawResult where
  disp := Display.setPixel r.disp p.1 p.2 (!Display.pixel r.disp p.1 p.2)
  collision := r.collision || Display.pixel r.disp p.1 p.2
  batch := r.batch ++ [⟨p.1, p.2, !Display.pixel r.disp p.1 p.2⟩]

/-- XOR a list of pixels into a display. -/
def xorPixels (d : Display) (ps : List (Fin 64 × Fin 32)) : DrawResult := ps.foldl xorPixel ⟨d, false, []⟩

/-- `Draw(x, y, n)` (R164): the coordinates are read before `VF` is written, and `I` is left alone. -/
def execDraw (x y : Reg) (n : Nibble) (s : State) : Host.Outcome State Fault Refusal :=
  if s.transferFaults n.toNat then fatal .memOutOfRange s
  else
    let r := xorPixels s.disp (s.spritePixels (s.getV x) (s.getV y) n.toNat)
    .next ((((s.setDisp r.disp).setV vf (flagByte r.collision)).emit r.batch).applyNext .advance)

end Sys2Proof.Machine
end

