-- ==== Sys2Proof/Machine/Flow.lean ====
section
/-!
DEFINITION. Control-flow instructions (40_flow.md). In every meaning `pc` is the address of the instruction itself and is
written once, by the next-PC behaviour (10_state.md R24, R25).
-/

namespace Sys2Proof.Machine

/-- `Sys(nnn)` (R106): no effect but the advance; no diagnostic record. -/
def execSys (_nnn : Addr12) (s : State) : Host.Outcome State Fault Refusal := .next (s.applyNext .advance)

/-- `Jump(nnn)` (R101). -/
def execJump (nnn : Addr12) (s : State) : Host.Outcome State Fault Refusal := .next (s.applyNext (.jump (zext12 nnn)))

/-- `Ret` (R103): the slot holds the address of the `Call`, and the pc goes one instruction past it. -/
def execRet (s : State) : Host.Outcome State Fault Refusal :=
  match s.topOfStack with
  | none => fatal .stackUnderflow s
  | some t => .next (s.dropTop.applyNext (.jump (t + 2)))

/-- `Call(nnn)` (R104): pushes the address of the `Call` itself. -/
def execCall (nnn : Addr12) (s : State) : Host.Outcome State Fault Refusal :=
  if s.sp.val = 16 then fatal .stackOverflow s
  else .next ((s.push s.pc).applyNext (.jump (zext12 nnn)))

/-- `JumpV0(nnn)` (R105): the target is not reduced modulo 4096. -/
def execJumpV0 (nnn : Addr12) (s : State) : Host.Outcome State Fault Refusal :=
  .next (s.applyNext (.jump (zext12 nnn + zext8 (s.getV 0x0))))

/-- `SkipEqByte(x, kk)` (R107). -/
def execSkipEqByte (x : Reg) (kk : Byte) (s : State) : Host.Outcome State Fault Refusal :=
  .next (s.applyNext (skipIf (s.getV x == kk)))

/-- `SkipNeByte(x, kk)` (R108). -/
def execSkipNeByte (x : Reg) (kk : Byte) (s : State) : Host.Outcome State Fault Refusal :=
  .next (s.applyNext (skipIf (s.getV x != kk)))

/-- `SkipEqReg(x, y)` (R109). -/
def execSkipEqReg (x y : Reg) (s : State) : Host.Outcome State Fault Refusal :=
  .next (s.applyNext (skipIf (s.getV x == s.getV y)))

/-- `SkipNeReg(x, y)` (R110). -/
def execSkipNeReg (x y : Reg) (s : State) : Host.Outcome State Fault Refusal :=
  .next (s.applyNext (skipIf (s.getV x != s.getV y)))

end Sys2Proof.Machine
end

