-- ==== Sys2Proof/Machine/IndexMem.lean ====
section
/-!
DEFINITION. Index-register and memory instructions (42_index_memory.md). A transfer's whole range is checked before anything
changes (20_memory.md R55); none writes `VF` as a flag.
-/

namespace Sys2Proof.Machine

/-- Write the index register and advance. -/
def writeIndex (a : Word) (s : State) : Host.Outcome State Fault Refusal := .next ((s.setI a).applyNext .advance)

/-- `LoadI(nnn)` (R141). -/
def execLoadI (nnn : Addr12) (s : State) : Host.Outcome State Fault Refusal := writeIndex (zext12 nnn) s

/-- `AddI(x)` (R142): the full 16-bit sum is kept, a carry out of bit 15 is fatal. -/
def execAddI (x : Reg) (s : State) : Host.Outcome State Fault Refusal :=
  if 0xFFFF < s.i.toNat + (s.getV x).toNat then fatal .indexOverflow s
  else writeIndex (s.i + zext8 (s.getV x)) s

/-- `LoadFont(x)` (R143). -/
def execLoadFont (x : Reg) (s : State) : Host.Outcome State Fault Refusal := writeIndex (glyphAddr (s.getV x)) s

/-- `Bcd(x)` (R144): `I` is left alone. -/
def execBcd (x : Reg) (s : State) : Host.Outcome State Fault Refusal :=
  if s.transferFaults 3 then fatal .memOutOfRange s
  else .next ((s.storeBytes (s.dataAddr 0) (bcdDigits (s.getV x))).applyNext .advance)

/-- `Store(x)` (R145): `x + 1` registers, and `I` moves past them. -/
def execStore (x : Reg) (s : State) : Host.Outcome State Fault Refusal :=
  if s.transferFaults (x.toNat + 1) then fatal .memOutOfRange s
  else writeIndex (s.indexAfter (x.toNat + 1)) (s.storeBytes (s.dataAddr 0) (s.regBlock (x.toNat + 1)))

/-- `Load(x)` (R146): `x + 1` registers, and `I` moves past the bytes read. -/
def execLoad (x : Reg) (s : State) : Host.Outcome State Fault Refusal :=
  if s.transferFaults (x.toNat + 1) then fatal .memOutOfRange s
  else writeIndex (s.indexAfter (x.toNat + 1)) (s.loadBlock (x.toNat + 1))

end Sys2Proof.Machine
end

