-- ==== Sys2Proof/Machine/KeysTimers.lean ====
section
/-!
DEFINITION. Key-state and timer instructions (44_keys_timers.md). A key is pressed when its counter is above 0, and each
observation of a press uses up one (R170).
-/

namespace Sys2Proof.Machine

/-- A key test: a pressed key uses up one press, whichever way the test goes. `onPressed` and `onNot` are the next-PC
behaviours of the two outcomes; a register that names no key is fatal (R171, R172). -/
def testKey (x : Reg) (onPressed onNot : NextPc) (s : State) : Host.Outcome State Fault Refusal :=
  match s.keyOperand x with
  | none => fatal .keyOutOfRange s
  | some k =>
    if 0 < s.key k then .next ((s.consumeKey k).applyNext onPressed) else .next (s.applyNext onNot)

/-- `SkipOnKeyPressed(x)` (R171). -/
def execSkipOnKeyPressed (x : Reg) (s : State) : Host.Outcome State Fault Refusal := testKey x .skip .advance s

/-- `SkipOnKeyNotPressed(x)` (R172): the negative test consumes too. -/
def execSkipOnKeyNotPressed (x : Reg) (s : State) : Host.Outcome State Fault Refusal := testKey x .advance .skip s

/-- `WaitKey(x)` (R173): the lowest pressed key, or a stall that changes nothing. -/
def execWaitKey (x : Reg) (s : State) : Host.Outcome State Fault Refusal :=
  match s.firstPressed with
  | some k => .next (((s.setV x (k.setWidth 8)).consumeKey k).applyNext .advance)
  | none => .next (s.applyNext .stall)

/-- `ReadDelay(x)` (R174): the value the previous cycles' timer logic left. -/
def execReadDelay (x : Reg) (s : State) : Host.Outcome State Fault Refusal := .next ((s.setV x s.dt).applyNext .advance)

/-- `SetDelay(x)` (R175): `TDIV` is not reset. -/
def execSetDelay (x : Reg) (s : State) : Host.Outcome State Fault Refusal := .next ((s.setDT (s.getV x)).applyNext .advance)

/-- `SetSound(x)` (R176). -/
def execSetSound (x : Reg) (s : State) : Host.Outcome State Fault Refusal := .next ((s.setST (s.getV x)).applyNext .advance)

end Sys2Proof.Machine
end

