-- ==== Sys2Proof/Machine/Dispatch.lean ====
section
/-!
DEFINITION. Executing one decoded instruction, its next-PC behaviour included: one arm per constructor. The timer logic and
the fetch are the cycle's (Machine/Cycle.lean).
-/

namespace Sys2Proof.Machine

/-- Execute `i` at its address `s.pc` (60_exceptions.md R217: execute, then apply next). -/
def exec (i : Instr) (s : State) : Host.Outcome State Fault Refusal :=
  match i with
  | .clear => Sys2Proof.Machine.execClear s
  | .ret => Sys2Proof.Machine.execRet s
  | .sys nnn => Sys2Proof.Machine.execSys nnn s
  | .jump nnn => Sys2Proof.Machine.execJump nnn s
  | .call nnn => Sys2Proof.Machine.execCall nnn s
  | .skipEqByte x kk => Sys2Proof.Machine.execSkipEqByte x kk s
  | .skipNeByte x kk => Sys2Proof.Machine.execSkipNeByte x kk s
  | .skipEqReg x y => Sys2Proof.Machine.execSkipEqReg x y s
  | .loadByte x kk => Sys2Proof.Machine.execLoadByte x kk s
  | .addByte x kk => Sys2Proof.Machine.execAddByte x kk s
  | .move x y => Sys2Proof.Machine.execMove x y s
  | .or x y => Sys2Proof.Machine.execOr x y s
  | .and x y => Sys2Proof.Machine.execAnd x y s
  | .xor x y => Sys2Proof.Machine.execXor x y s
  | .add x y => Sys2Proof.Machine.execAdd x y s
  | .subXY x y => Sys2Proof.Machine.execSubXY x y s
  | .shiftRight x y => Sys2Proof.Machine.execShiftRight x y s
  | .subYX x y => Sys2Proof.Machine.execSubYX x y s
  | .shiftLeft x y => Sys2Proof.Machine.execShiftLeft x y s
  | .skipNeReg x y => Sys2Proof.Machine.execSkipNeReg x y s
  | .loadI nnn => Sys2Proof.Machine.execLoadI nnn s
  | .jumpV0 nnn => Sys2Proof.Machine.execJumpV0 nnn s
  | .random x kk => Sys2Proof.Machine.execRandom x kk s
  | .draw x y n => Sys2Proof.Machine.execDraw x y n s
  | .skipOnKeyPressed x => Sys2Proof.Machine.execSkipOnKeyPressed x s
  | .skipOnKeyNotPressed x => Sys2Proof.Machine.execSkipOnKeyNotPressed x s
  | .readDelay x => Sys2Proof.Machine.execReadDelay x s
  | .waitKey x => Sys2Proof.Machine.execWaitKey x s
  | .setDelay x => Sys2Proof.Machine.execSetDelay x s
  | .setSound x => Sys2Proof.Machine.execSetSound x s
  | .addI x => Sys2Proof.Machine.execAddI x s
  | .loadFont x => Sys2Proof.Machine.execLoadFont x s
  | .bcd x => Sys2Proof.Machine.execBcd x s
  | .store x => Sys2Proof.Machine.execStore x s
  | .load x => Sys2Proof.Machine.execLoad x s

end Sys2Proof.Machine
end

