-- ==== Sys2Proof/Machine/Timers.lean ====
section
/-!
DEFINITION. The timer decrement (60_exceptions.md R219) and the tone output (R220).
-/

namespace Sys2Proof.Machine

/-- The prescaler wraps at this tick, so both timers decrement. -/
def State.timersDue (s : State) (div : Nat) : Bool := s.tdiv + 1 == div

/-- A timer one down, never below 0 (10_state.md R31). -/
def countDown (t : Byte) : Byte := if t = 0 then 0 else t - 1

/-- `TimerTick()` with `TIMER_DIV` = `div` (R219). -/
def State.timerTick (div : Nat) (s : State) : State :=
  { s with
    tdiv := if s.timersDue div then 0 else s.tdiv + 1
    dt := if s.timersDue div then countDown s.dt else s.dt
    st := if s.timersDue div then countDown s.st else s.st }

/-- The output `tone` (R220). -/
def State.tone (s : State) : Bool := decide (0 < s.st.toNat)

/-- The output `fault_cause` (60_exceptions.md R230): the code of R202. -/
def causeCode : FaultCause → BitVec 3
  | .none => 0
  | .stackOverflow => 1
  | .stackUnderflow => 2
  | .fetchOutOfRange => 3
  | .memOutOfRange => 4
  | .indexOverflow => 5
  | .keyOutOfRange => 6
  | .timingLost => 7

end Sys2Proof.Machine
end

