-- ==== Sys2Proof/Machine/Cycle.lean ====
section
/-!
DEFINITION. The cycle and the poll of the CORE (60_exceptions.md R210, R216, R217), the step of each agent, and whose turn it is.
-/

namespace Sys2Proof.Machine

/-- The end of a cycle whose instruction has run: the timer logic, skipped if the instruction raised (R217). -/
def endCycle (t : State) : State := if t.halted then t else t.timerTick Sys2Proof.Config.timerDiv

/-- An unrecognised opcode `w` (30_encoding.md R86): one diagnostic record, and the advance. -/
def State.skipUnrecognised (s : State) (w : Word) : State :=
  (s.log ⟨.decodeFailure, s.pc, w⟩).applyNext .advance

/-- What follows the execution of an instruction. -/
def afterExec : Host.Outcome State Fault Refusal → Host.Outcome State Fault Refusal
  | .next t => .next (endCycle t)
  | .fault r => .fault r
  | .refused r => .refused r

/-- `Cycle()` (R217): the fetch check (20_memory.md R53), decode, execute, the timer logic. -/
def cycle (s : State) : Host.Outcome State Fault Refusal :=
  if 0xFFE < s.pc.toNat then .next (s.raiseFatal .fetchOutOfRange 0x0000)
  else match decode s.fetchedWord with
    | none => .next (endCycle (s.skipUnrecognised s.fetchedWord))
    | some i => afterExec (exec i s)

/-- `Poll()` (R217), its checks in the order of R210. -/
def poll (s : State) : Host.Outcome State Fault Refusal :=
  if s.halted then .next s
  else if s.tickPending then cycle { s with tickPending := false }
  else if s.tickLost then .next (s.raiseFatal .timingLost 0x0000)
  else .next s

/-- The step of one agent (00_scope.md R10), atomic with respect to the others (20_memory.md R62). -/
def agentStep (a : AgentStep) (s : State) : Host.Outcome State Fault Refusal :=
  match a with
  | .poll => poll s
  | .tick => .next s.tick
  | .disconnect => .next s.disconnect
  | .press k => .next (s.press k)
  | .drain => .next s.drain
  | .reset rom => s.resetWith rom

/-- Whose step comes next when nothing is scheduled: the Timing Source's when it can still tick and no tick is pending, else
the CORE's (log entry 2). -/
def State.idleTurn (s : State) : AgentStep := if s.tickPending || s.tickLost then .poll else .tick

/-- The next agent step, and the state with it taken off the agenda (log entry 1). -/
def State.turn (s : State) : AgentStep × State :=
  match s.agenda with
  | [] => (s.idleTurn, s)
  | a :: rest => (a, { s with agenda := rest })

end Sys2Proof.Machine
end

