-- ==== Sys2Proof/Machine/Step.lean ====
section
/-!
DEFINITION. One step of the machine: the step of the agent whose turn it is. And `withFetchWord`, which puts an instruction
where the very next step fetches it.
-/

namespace Sys2Proof.Machine

/-- One step: the agent whose turn it is does its step (00_scope.md R10; log entries 1 and 2). -/
def step (s : State) : Host.Outcome State Fault Refusal := agentStep s.turn.1 s.turn.2

/-- `s` with the instruction whose bits the opcode table numbers as `w` stored at `pc`, high byte first, so that the very next
step is the cycle that fetches and runs it. -/
def State.withFetchWord (s : State) (nbits w : Nat) : State := s.placeWord (tableWord nbits w)

end Sys2Proof.Machine
end

