-- ==== Sys2Proof/Safety.lean ====
section
/-!
DEFINITION. The terms claims are made in: the invariant every step keeps, what a display consumer makes of the channel, and when
a cycle runs.
-/

namespace Sys2Proof.Machine

/-- What holds of the machine between steps. Memory is in canonical form; the program counter stays in the range of
10_state.md R27; every slot in use holds the address of a `Call` that was fetched; the prescaler stays below `TIMER_DIV` (R37);
the fault record is empty while the CORE runs, and after a fatal condition it names a cause, the halted `pc`, no word for a fetch
or timing fault, and is the last diagnostic record (R36; 60_exceptions.md R204). -/
structure State.Inv (s : State) : Prop where
  memWf : Memory.wf s.mem = true
  pcBound : s.pc.toNat ≤ 0x10FE
  slots : ∀ (k : Nat) (h : k < 16), k < s.sp.val → s.stack[k].toNat ≤ 0xFFE
  tdivBound : s.tdiv < Sys2Proof.Config.timerDiv
  noRecord : s.halted = false → s.faultCause = .none ∧ s.faultPc = 0x0000 ∧ s.faultWord = 0x0000
  record : s.halted = true →
    s.faultCause ≠ .none ∧ s.faultPc = s.pc ∧
    (s.faultCause = .fetchOutOfRange ∨ s.faultCause = .timingLost → s.faultWord = 0x0000) ∧
    s.diag.getLast? = some ⟨.fatal s.faultCause, s.faultPc, s.faultWord⟩

/-- A consumer's frame after one batch: each record sets its pixel (43_display.md R165). -/
def applyBatch (frame : Display) (b : Batch) : Display :=
  b.foldl (fun f r => Display.setPixel f r.x r.y r.value) frame

/-- A consumer's frame after all the batches of a channel, in order. -/
def replay (frame : Display) (c : List Batch) : Display := c.foldl applyBatch frame

/-- The frame a consumer keeps after a step of the agent `a` at `s`: a drain takes the oldest batch, a reset starts over from the
all-zero frame, any other step shows it nothing. -/
def frameAfter (frame : Display) (a : AgentStep) (s : State) : Display :=
  match a with
  | .drain => replay frame (s.channel.take 1)
  | .reset _ => Display.blank
  | .poll => frame
  | .tick => frame
  | .disconnect => frame
  | .press _ => frame

/-- It is the CORE's turn, and `rest` is scheduled after it: a poll is first on the agenda, or the agenda is empty and the tick
latch (or the loss of the Timing Source) gives the CORE the turn. -/
def State.CoreTurn (s : State) (rest : List AgentStep) : Prop :=
  s.agenda = .poll :: rest ∨ (s.agenda = [] ∧ rest = [] ∧ (s.tickPending = true ∨ s.tickLost = true))

/-- It is the Timing Source's turn to tick, and `rest` is scheduled after it: a tick is first on the agenda, or the agenda is empty and
the idle turn is the source's, no tick being pending and the source not lost. -/
def State.TickTurn (s : State) (rest : List AgentStep) : Prop :=
  s.agenda = .tick :: rest ∨ (s.agenda = [] ∧ rest = [] ∧ s.tickPending = false ∧ s.tickLost = false)

/-- The next step is a cycle: the CORE's turn, not halted, a tick pending (60_exceptions.md R216). -/
def State.CycleTurn (s : State) (rest : List AgentStep) : Prop :=
  s.CoreTurn rest ∧ s.halted = false ∧ s.tickPending = true

/-- The state a cycle starts from: the tick is taken from the latch and the turn from the agenda. -/
def State.atCycle (s : State) (rest : List AgentStep) : State := { s with tickPending := false, agenda := rest }

/-- The two bytes at `pc`, in memory order. -/
def State.bytesAtPc (s : State) : List Byte := [s.readMem s.pc.toNat, s.readMem (s.pc.toNat + 1)]

/-! ### Classes of instructions -/

/-- The operands of `i` are the fields of the word `w`, by the bit-extraction formulas of 30_encoding.md R71. -/
def FieldsOf (w : Word) : Instr → Prop
  | .clear | .ret => True
  | .sys nnn | .jump nnn | .call nnn | .loadI nnn | .jumpV0 nnn => nnn.toNat = w.toNat % 0x1000
  | .skipEqByte x kk | .skipNeByte x kk | .loadByte x kk | .addByte x kk | .random x kk =>
    x.toNat = w.toNat / 0x100 % 0x10 ∧ kk.toNat = w.toNat % 0x100
  | .skipEqReg x y | .skipNeReg x y | .move x y | .or x y | .and x y | .xor x y | .add x y | .subXY x y
  | .shiftRight x y | .subYX x y | .shiftLeft x y =>
    x.toNat = w.toNat / 0x100 % 0x10 ∧ y.toNat = w.toNat / 0x10 % 0x10
  | .draw x y n =>
    x.toNat = w.toNat / 0x100 % 0x10 ∧ y.toNat = w.toNat / 0x10 % 0x10 ∧ n.toNat = w.toNat % 0x10
  | .skipOnKeyPressed x | .skipOnKeyNotPressed x | .readDelay x | .waitKey x | .setDelay x | .setSound x
  | .addI x | .loadFont x | .bcd x | .store x | .load x => x.toNat = w.toNat / 0x100 % 0x10

/-- The one fatal condition an instruction can meet, and its cause (60_exceptions.md R202, 20_memory.md R55). -/
def fatalCondition (s : State) : Instr → Option FaultCause
  | .call _ => if s.sp.val = 16 then some .stackOverflow else none
  | .ret => if s.sp.val = 0 then some .stackUnderflow else none
  | .bcd _ => if 0xFFF < s.i.toNat + 2 then some .memOutOfRange else none
  | .store x => if 0xFFF < s.i.toNat + x.toNat then some .memOutOfRange else none
  | .load x => if 0xFFF < s.i.toNat + x.toNat then some .memOutOfRange else none
  | .draw _ _ n => if 1 ≤ n.toNat ∧ 0xFFF < s.i.toNat + n.toNat - 1 then some .memOutOfRange else none
  | .addI x => if 0xFFFF < s.i.toNat + (s.getV x).toNat then some .indexOverflow else none
  | .skipOnKeyPressed x => if 0xF < (s.getV x).toNat then some .keyOutOfRange else none
  | .skipOnKeyNotPressed x => if 0xF < (s.getV x).toNat then some .keyOutOfRange else none
  | .clear | .sys _ | .jump _ | .jumpV0 _ | .loadI _ | .loadFont _ => none
  | .skipEqByte _ _ | .skipNeByte _ _ | .skipEqReg _ _ | .skipNeReg _ _ => none
  | .loadByte _ _ | .addByte _ _ | .move _ _ | .or _ _ | .and _ _ | .xor _ _ | .random _ _ => none
  | .add _ _ | .subXY _ _ | .shiftRight _ _ | .subYX _ _ | .shiftLeft _ _ => none
  | .waitKey _ | .readDelay _ | .setDelay _ | .setSound _ => none

/-- The registers an instruction may write: its destination, `VF` for the six instructions of 10_state.md R21, `V0` to `Vx` for
`Load`. -/
def mayWrite (q : Reg) : Instr → Prop
  | .loadByte x _ | .addByte x _ | .random x _ => q = x
  | .move x _ | .or x _ | .and x _ | .xor x _ => q = x
  | .add x _ | .subXY x _ | .shiftRight x _ | .subYX x _ | .shiftLeft x _ => q = x ∨ q = 0xF
  | .draw _ _ _ => q = 0xF
  | .readDelay x | .waitKey x => q = x
  | .load x => q.toNat ≤ x.toNat
  | .clear | .ret | .sys _ | .jump _ | .call _ | .jumpV0 _ | .loadI _ => False
  | .skipEqByte _ _ | .skipNeByte _ _ | .skipEqReg _ _ | .skipNeReg _ _ => False
  | .skipOnKeyPressed _ | .skipOnKeyNotPressed _ | .setDelay _ | .setSound _ => False
  | .addI _ | .loadFont _ | .bcd _ | .store _ => False

/-- The six instructions that write `VF` as a flag (10_state.md R21). -/
def writesFlag : Instr → Bool
  | .add _ _ | .subXY _ _ | .shiftRight _ _ | .subYX _ _ | .shiftLeft _ _ | .draw _ _ _ => true
  | .clear | .ret | .sys _ | .jump _ | .call _ | .jumpV0 _ | .loadI _ => false
  | .skipEqByte _ _ | .skipNeByte _ _ | .skipEqReg _ _ | .skipNeReg _ _ => false
  | .loadByte _ _ | .addByte _ _ | .move _ _ | .or _ _ | .and _ _ | .xor _ _ | .random _ _ => false
  | .skipOnKeyPressed _ | .skipOnKeyNotPressed _ | .readDelay _ | .waitKey _ | .setDelay _ | .setSound _ => false
  | .addI _ | .loadFont _ | .bcd _ | .store _ | .load _ => false

/-- The two instructions that write memory (20_memory.md R55, R56). -/
def writesMemory (i : Instr) : Prop := ∃ x, i = .bcd x ∨ i = .store x

/-- The two instructions that write the display and emit a batch (43_display.md R160). -/
def writesDisplay (i : Instr) : Prop := i = .clear ∨ ∃ x y n, i = .draw x y n

/-- The two instructions that touch the call stack (10_state.md R30). -/
def touchesStack (i : Instr) : Prop := i = .ret ∨ ∃ nnn, i = .call nnn

/-- The three instructions that consume key presses (10_state.md R32). -/
def consumesKeys (i : Instr) : Prop := ∃ x, i = .skipOnKeyPressed x ∨ i = .skipOnKeyNotPressed x ∨ i = .waitKey x

/-- The instructions that write the index register (10_state.md R29). -/
def writesI (i : Instr) : Prop :=
  (∃ nnn, i = .loadI nnn) ∨ ∃ x, i = .addI x ∨ i = .loadFont x ∨ i = .store x ∨ i = .load x

/-- The jumps: `pc` is set absolutely (10_state.md R25). -/
def isJump : Instr → Bool
  | .jump _ | .jumpV0 _ | .call _ | .ret => true
  | .clear | .sys _ | .loadI _ => false
  | .skipEqByte _ _ | .skipNeByte _ _ | .skipEqReg _ _ | .skipNeReg _ _ => false
  | .loadByte _ _ | .addByte _ _ | .move _ _ | .or _ _ | .and _ _ | .xor _ _ | .random _ _ => false
  | .add _ _ | .subXY _ _ | .shiftRight _ _ | .subYX _ _ | .shiftLeft _ _ | .draw _ _ _ => false
  | .skipOnKeyPressed _ | .skipOnKeyNotPressed _ | .readDelay _ | .waitKey _ | .setDelay _ | .setSound _ => false
  | .addI _ | .loadFont _ | .bcd _ | .store _ | .load _ => false

/-- The six skip instructions. -/
def isSkip : Instr → Bool
  | .skipEqByte _ _ | .skipNeByte _ _ | .skipEqReg _ _ | .skipNeReg _ _ => true
  | .skipOnKeyPressed _ | .skipOnKeyNotPressed _ => true
  | .clear | .ret | .sys _ | .jump _ | .call _ | .jumpV0 _ | .loadI _ => false
  | .loadByte _ _ | .addByte _ _ | .move _ _ | .or _ _ | .and _ _ | .xor _ _ | .random _ _ => false
  | .add _ _ | .subXY _ _ | .shiftRight _ _ | .subYX _ _ | .shiftLeft _ _ | .draw _ _ _ => false
  | .readDelay _ | .waitKey _ | .setDelay _ | .setSound _ => false
  | .addI _ | .loadFont _ | .bcd _ | .store _ | .load _ => false

/-- Bit `7 - col` of the sprite's row byte at `I + row` is 1, and that pixel of a sprite drawn at `(vx, vy)` is `(px, py)`
(43_display.md R162, R163). -/
def State.SpriteHits (s : State) (vx vy : Byte) (n : Nat) (px : Fin 64) (py : Fin 32) : Prop :=
  ∃ row, row < n ∧ ∃ col, col < 8 ∧ (s.readMem (s.i.toNat + row)).getLsbD (7 - col) = true ∧
    px.val = (vx.toNat + col) % 64 ∧ py.val = (vy.toNat + row) % 32

end Sys2Proof.Machine
end

