-- ==== Sys2Proof/Certificates/Slice0/Obligations.lean ====
section
/-!
DEFINITION. The statements for the provers. Every statement holds in every state, reached or not, but where an invariant is a
premise. A frame is written as an equation: `t = { s with v := t.v, pc := t.pc }` says that `t` is `s` but for those two fields;
that every byte of memory reads as before is said beside it. What is the spec's own choice (a sentence it marks `[decision]`,
`[derived]` or `[from general knowledge]`) is named in the docstring.
-/

open Sys2Proof Sys2Proof.Machine

/-! ## Encoding -/

/-- Words written out in the spec decode to the instructions it names: 30_encoding.md R80 (JE's own five encodings),
95_test_vectors.md E1 to E27. The other opcode numbers are the spec's general knowledge (D2); that the low nibble of 0x512F is
ignored is D3. -/
def Obligations.SpecWordsDecode : Prop :=
  decode 0x00E0 = some .clear ∧ decode 0x00EE = some .ret ∧ decode 0x00E1 = some (.sys 0x0E1) ∧
  decode 0x1A1E = some (.jump 0xA1E) ∧ decode 0x3AFF = some (.skipEqByte 0xA 0xFF) ∧
  decode 0x512F = some (.skipEqReg 1 2) ∧ decode 0x8214 = some (.add 2 1) ∧ decode 0x821E = some (.shiftLeft 2 1) ∧
  decode 0xA300 = some (.loadI 0x300) ∧ decode 0xDABC = some (.draw 0xA 0xB 0xC) ∧
  decode 0xE1A1 = some (.skipOnKeyNotPressed 1) ∧ decode 0xFA33 = some (.bcd 0xA) ∧ decode 0x8218 = none

/-- Decode and encode agree: the word of every well-formed instruction, with every operand value, decodes to it; and so do its
two bytes in memory order, whatever follows them (30_encoding.md R70, R75, R80). The opcode numbers and the byte order are the
spec's D1 and D2. -/
def Obligations.DecodeOfEncodeIsIdentity : Prop :=
  ∀ i : Instr, i.wellFormed = true → decode (encode i) = some i ∧
    ∀ rest : List Byte, decodeBytes ((bytesOfWord (encode i)).1 :: (bytesOfWord (encode i)).2 :: rest) = .ok (i, rest)

/-- Decoder totality (30_encoding.md R75): what the decoder returns is a variant whose operands are the fields of R71, and putting its
constant bits and operands together again gives the word back, but for the ignored nibble of `SkipEqReg` and `SkipNeReg` (groups 5
and 9). That this nibble is ignored is the spec's D3, that it comes back as 0 the canonical spelling R85 takes from general
knowledge (log entries 16, 17); that the instruction is well-formed is R81. -/
def Obligations.DecodedOperandsAreTheFields : Prop :=
  ∀ (w : Word) (i : Instr), decode w = some i →
    FieldsOf w i ∧ i.wellFormed = true ∧
    encode i = (if w.toNat / 0x1000 = 0x5 ∨ w.toNat / 0x1000 = 0x9 then w &&& 0xFFF0 else w)

/-- The unrecognised words are exactly those of 30_encoding.md R82, R83 and R84; every word of the other thirteen groups is
recognised, those of group 0x0 but the two literal words as `Sys` (R81). The discriminant values are the spec's general knowledge
(D2). -/
def Obligations.UnrecognisedWordsAreExactlyThese : Prop :=
  (∀ w : Word, decode w = none ↔
    (w.toNat / 0x1000 = 0x8 ∧ w.toNat % 0x10 ∈ [0x8, 0x9, 0xA, 0xB, 0xC, 0xD, 0xF]) ∨
    (w.toNat / 0x1000 = 0xE ∧ w.toNat % 0x100 ∉ [0x9E, 0xA1]) ∨
    (w.toNat / 0x1000 = 0xF ∧ w.toNat % 0x100 ∉ [0x07, 0x0A, 0x15, 0x18, 0x1E, 0x29, 0x33, 0x55, 0x65])) ∧
  ∀ w : Word, w.toNat / 0x1000 = 0x0 → w ≠ 0x00E0 → w ≠ 0x00EE → ∃ nnn : Addr12, decode w = some (.sys nnn)

/-! ## The step -/

/-- A step runs the decoded instruction (60_exceptions.md R217): when a cycle's turn comes with `pc` at most 0xFFE and the two
bytes at `pc` decode to `i`, the step is `exec i` at the state with the tick taken from the latch and the turn from the agenda, and
then the timer logic unless the instruction raised. That the timers come after the instruction is the spec's D15; `agenda` is the
model's own (log entries 1, 2). -/
def Obligations.StepRunsTheDecodedInstruction : Prop :=
  ∀ (s : State) (rest : List AgentStep) (i : Instr),
    s.CycleTurn rest → s.pc.toNat ≤ 0xFFE → decodeBytes s.bytesAtPc = .ok (i, []) →
    i.wellFormed = true ∧
    step s = (match exec i { s with tickPending := false, agenda := rest } with
      | .next t => .next (if t.halted then t else t.timerTick Config.timerDiv)
      | .fault r => .fault r
      | .refused r => .refused r)

/-- An instruction word placed by `withFetchWord` is the one the very next step runs: the tick pending, nothing else scheduled,
the CORE running, and the word at `pc`, `pc + 1` high byte first (20_memory.md R52). -/
def Obligations.PlacedWordIsFetchedNext : Prop :=
  ∀ (s : State) (w : Nat), w < 0x10000 → s.pc.toNat ≤ 0xFFE →
    (s.withFetchWord 16 w).CycleTurn [] ∧
    (s.withFetchWord 16 w).fetchedWord.toNat = w ∧
    (∀ a : Nat, a ≠ s.pc.toNat → a ≠ s.pc.toNat + 1 → (s.withFetchWord 16 w).readMem a = s.readMem a) ∧
    s.withFetchWord 16 w =
      { s with mem := (s.withFetchWord 16 w).mem, halted := false, tickPending := true, agenda := [] }

/-- 60_exceptions.md R207: a decode failure is no fault. It writes one diagnostic record and advances; HALTED stays 0 and the fault
registers are untouched. -/
def Obligations.DecodeFailureIsNoFault : Prop :=
  ∀ (s : State) (rest : List AgentStep),
    s.CycleTurn rest → s.pc.toNat ≤ 0xFFE → decode (wordOfBytes (s.readMem s.pc.toNat) (s.readMem (s.pc.toNat + 1))) = none →
    ∃ t r, step s = .next t ∧ t.diag = s.diag ++ [r] ∧ t.pc = s.pc + 2 ∧ t.halted = false ∧
      t.faultCause = s.faultCause ∧ t.faultPc = s.faultPc ∧ t.faultWord = s.faultWord

/-- All that an unrecognised word does (30_encoding.md R86): the record is `(DECODE_FAILURE, pc, w)` (its layout is the spec's D14),
`pc` goes up by 2, no other state changes, and the cycle counts for the timers (the spec's D15). -/
def Obligations.UnrecognisedOpcodeIsLoggedAndSkipped : Prop :=
  ∀ (s : State) (rest : List AgentStep),
    s.CycleTurn rest → s.pc.toNat ≤ 0xFFE → decode (wordOfBytes (s.readMem s.pc.toNat) (s.readMem (s.pc.toNat + 1))) = none →
    ∃ t, step s = .next t ∧
      t.diag = s.diag ++ [⟨.decodeFailure, s.pc, wordOfBytes (s.readMem s.pc.toNat) (s.readMem (s.pc.toNat + 1))⟩] ∧
      t = State.timerTick Config.timerDiv { s with
        tickPending := false, agenda := rest, pc := s.pc + 2, diag := t.diag }

/-- The fetch check (20_memory.md R53): a cycle with `pc` above 0xFFE fetches nothing and raises FETCH_OUT_OF_RANGE, with FAULT_WORD 0x0000
(60_exceptions.md R204); the timers do not run. The cause code and the record are the spec's D12 and D13. -/
def Obligations.FetchOutsideMemoryIsFatal : Prop :=
  ∀ (s : State) (rest : List AgentStep), s.CycleTurn rest → 0xFFE < s.pc.toNat →
    ∃ t, step s = .next t ∧
      t = { s with
        tickPending := false, agenda := rest, halted := true, faultCause := .fetchOutOfRange, faultPc := s.pc,
        faultWord := 0x0000, diag := s.diag ++ [⟨.fatal .fetchOutOfRange, s.pc, 0x0000⟩] }

/-- The order of a poll's checks (60_exceptions.md R210, R217; the spec's D29), whenever it is the CORE's turn, scheduled or with
nothing on the agenda (log entries 1, 2): HALTED wins over everything, a pending tick over a lost Timing Source, and a poll with
neither changes nothing. -/
def Obligations.PollChecksInOrder : Prop :=
  ∀ (s : State) (rest : List AgentStep), s.CoreTurn rest →
    (s.halted = true → step s = .next { s with agenda := rest }) ∧
    (s.halted = false → s.tickPending = true → step s = cycle { s with tickPending := false, agenda := rest }) ∧
    (s.halted = false → s.tickPending = false → s.tickLost = true →
      step s = .next { s with
        agenda := rest, halted := true, faultCause := .timingLost, faultPc := s.pc, faultWord := 0x0000,
        diag := s.diag ++ [⟨.fatal .timingLost, s.pc, 0x0000⟩] }) ∧
    (s.halted = false → s.tickPending = false → s.tickLost = false → step s = .next { s with agenda := rest })

/-- Every step answers a next state, but for a reset with a ROM above 3584 bytes, which is refused (70_reset_and_hazards.md R255,
the spec's D28): nothing else stops the model. -/
def Obligations.OnlyALongRomIsRefused : Prop :=
  ∀ s : State,
    (∀ rom rest, s.agenda = .reset rom :: rest → rom.length ≤ 3584) ∧ (∃ t, step s = .next t) ∨
    ∃ rom rest, s.agenda = .reset rom :: rest ∧ 3584 < rom.length ∧ step s = .refused .romTooLong

/-! ## The halt state -/

/-- Fault entry is precise (60_exceptions.md R204; the spec's D12, D13): when an instruction raises, the halt registers and the
diagnostic record are written with its own `pc` and word, and nothing else changes. -/
def Obligations.FatalEntryIsPrecise : Prop :=
  ∀ (i : Instr) (s t : State), s.halted = false → exec i s = .next t → t.halted = true →
    t.faultCause ≠ .none ∧
    t = { s with
      halted := true, faultCause := t.faultCause, faultPc := s.pc,
      faultWord := wordOfBytes (s.readMem s.pc.toNat) (s.readMem (s.pc.toNat + 1)),
      diag := s.diag ++ [⟨.fatal t.faultCause, s.pc, wordOfBytes (s.readMem s.pc.toNat) (s.readMem (s.pc.toNat + 1))⟩] }

/-- Which instruction raises which cause, and when (60_exceptions.md R202, 20_memory.md R55): exactly under its one condition.
The causes' names are the spec's D13; D10 and D11 are its choices for a key and an index out of range. -/
def Obligations.InstructionsRaiseExactlyTheirCause : Prop :=
  ∀ (i : Instr) (s t : State), s.halted = false → exec i s = .next t →
    (∀ c, fatalCondition s i = some c → t.halted = true ∧ t.faultCause = c) ∧
    (fatalCondition s i = none → t.halted = false ∧ t.faultCause = s.faultCause ∧ t.faultPc = s.faultPc ∧
      t.faultWord = s.faultWord ∧ t.diag = s.diag)

/-- While HALTED is 1 the CORE takes no cycle, and only a reset leaves the halt state (60_exceptions.md R203; the spec's D13):
whatever agent steps but a reset, registers, memory, timers, stack, display and the fault record stay and no batch is emitted; only
the tick latch, the loss of the Timing Source, the key counters and what the consumer takes from the head of the channel can
change. -/
def Obligations.HaltedCoreTakesNoCycle : Prop :=
  ∀ s : State, s.halted = true → (∀ rom rest, s.agenda ≠ .reset rom :: rest) →
    ∃ t, step s = .next t ∧ t.halted = true ∧
      t = { s with
        tickPending := t.tickPending, tickLost := t.tickLost, keys := t.keys, channel := t.channel, agenda := t.agenda } ∧
      (t.channel = s.channel ∨ t.channel = s.channel.tail) ∧
      (s.tickPending = true → t.tickPending = true) ∧ (s.tickLost = true → t.tickLost = true) ∧
      (∀ k, s.key k ≤ t.key k)

/-! ## The other agents -/

/-- A `tick` step sets the latch and changes nothing else; a tick already pending is merged (60_exceptions.md R215, the spec's
D17). It is a step of a Timing Source that has not disconnected (R218), scheduled or, with nothing on the agenda, when no tick is
pending (log entries 1, 2). -/
def Obligations.TickIsLatched : Prop :=
  ∀ (s : State) (rest : List AgentStep), s.TickTurn rest → s.tickLost = false →
    step s = .next { s with tickPending := true, agenda := rest }

/-- A disconnection is for good (60_exceptions.md R218): it sets TICK_LOST and nothing else, and from then on no step but a reset
clears TICK_LOST, and no step sets the tick latch again. -/
def Obligations.DisconnectionIsForGood : Prop :=
  (∀ (s : State) (rest : List AgentStep), s.agenda = .disconnect :: rest →
    step s = .next { s with tickLost := true, agenda := rest }) ∧
  ∀ s t : State, s.tickLost = true → (∀ rom rest, s.agenda ≠ .reset rom :: rest) → step s = .next t →
    t.tickLost = true ∧ (t.tickPending = true → s.tickPending = true)

/-- A press increments that key's counter by one, at any time, halted or stalled included, and changes nothing else
(60_exceptions.md R225; the counters are unbounded, the spec's D19). -/
def Obligations.PressCountsOneKey : Prop :=
  ∀ (s : State) (k : KeyId) (rest : List AgentStep), s.agenda = .press k :: rest →
    ∃ t, step s = .next t ∧ t = { s with keys := t.keys, agenda := rest } ∧
      t.key k = s.key k + 1 ∧ ∀ j, j ≠ k → t.key j = s.key j

/-- The display consumer removes the oldest batch from the channel and changes no CORE state (60_exceptions.md R224). -/
def Obligations.DrainTakesTheOldestBatch : Prop :=
  ∀ (s : State) (rest : List AgentStep), s.agenda = .drain :: rest →
    ∃ t, step s = .next t ∧ t = { s with channel := t.channel, agenda := rest } ∧
      (∀ b bs, s.channel = b :: bs → t.channel = bs) ∧ (s.channel = [] → t.channel = [])

/-- What `reset(ROM)` leaves, from any state, halted or not (10_state.md R40, 70_reset_and_hazards.md R250 to R255): `pc` 0x200, the
ROM verbatim from 0x200, the font at its base, every other byte and every other register 0, an empty channel and diagnostic stream.
The font is written out here from R254, glyph by glyph, so that it does not rest on the model's own table. The zero values are the
spec's D18, the font's bytes and place its D8; the two fields that go on are the model's own (log entry
18). -/
def Obligations.ResetLeavesTheLaunchState : Prop :=
  ∀ (s : State) (rom : List Byte) (rest : List AgentStep), s.agenda = .reset rom :: rest → rom.length ≤ 3584 →
    ∃ t, step s = .next t ∧
      (∀ a : Nat, t.readMem a =
        if 0x200 ≤ a ∧ a < 0x200 + rom.length then rom.getD (a - 0x200) 0
        else (([0xF0, 0x90, 0x90, 0x90, 0xF0] ++ [0x20, 0x60, 0x20, 0x20, 0x70] ++
          [0xF0, 0x10, 0xF0, 0x80, 0xF0] ++ [0xF0, 0x10, 0xF0, 0x10, 0xF0] ++
          [0x90, 0x90, 0xF0, 0x10, 0x10] ++ [0xF0, 0x80, 0xF0, 0x10, 0xF0] ++
          [0xF0, 0x80, 0xF0, 0x90, 0xF0] ++ [0xF0, 0x10, 0x20, 0x40, 0x40] ++
          [0xF0, 0x90, 0xF0, 0x90, 0xF0] ++ [0xF0, 0x90, 0xF0, 0x10, 0xF0] ++
          [0xF0, 0x90, 0xF0, 0x90, 0x90] ++ [0xE0, 0x90, 0xE0, 0x90, 0xE0] ++
          [0xF0, 0x80, 0x80, 0x80, 0xF0] ++ [0xE0, 0x90, 0x90, 0x90, 0xE0] ++
          [0xF0, 0x80, 0xF0, 0x80, 0xF0] ++ [0xF0, 0x80, 0xF0, 0x80, 0x80] : List Byte).getD a 0x00)) ∧
      Memory.wf t.mem = true ∧
      t.pc = 0x0200 ∧ (∀ r, t.getV r = 0x00) ∧ t.i = 0x0000 ∧ t.sp.val = 0 ∧
      (∀ (k : Nat) (h : k < 16), t.stack[k] = 0x0000) ∧ t.dt = 0x00 ∧ t.st = 0x00 ∧ (∀ k, t.key k = 0) ∧
      (∀ x y, Display.pixel t.disp x y = false) ∧ t.halted = false ∧ t.faultCause = .none ∧ t.faultPc = 0x0000 ∧
      t.faultWord = 0x0000 ∧ t.tickPending = false ∧ t.tickLost = false ∧ t.tdiv = 0 ∧ t.channel = [] ∧ t.diag = [] ∧
      t.rndDraws = s.rndDraws ∧ t.agenda = rest

/-- The timer decrement (60_exceptions.md R219) for every `TIMER_DIV`: the prescaler counts the tick, and at the `TIMER_DIV`-th both
timers go down by one, never below 0; nothing else changes. That the ratio is a parameter is the spec's D16. -/
def Obligations.TimersCountObservedTicks : Prop :=
  ∀ (d : Nat) (s : State), s.tdiv < d →
    (s.tdiv + 1 < d → s.timerTick d = { s with tdiv := s.tdiv + 1 }) ∧
    (s.tdiv + 1 = d →
      ∃ t, s.timerTick d = t ∧ t = { s with tdiv := 0, dt := t.dt, st := t.st } ∧
        t.dt.toNat = s.dt.toNat - 1 ∧ t.st.toNat = s.st.toNat - 1) ∧
    (s.timerTick d).tdiv < d

/-! ## Invariants and whole-machine rules -/

/-- The invariant holds at reset. Of the reset values only `pc` is the source's; the empty memory list, the empty stack, the prescaler
at 0 and the cleared halt registers are the spec's own choice, D18, D16 and D13 (log entry 9), and that the launch is the one with the
empty ROM is log entry 10. -/
def Obligations.ResetMeetsTheInvariant : Prop := State.reset.Inv

/-- Every step keeps the invariant (`State.Inv` of Safety.lean): the canonical memory, `pc` never above 0x10FE (10_state.md R27),
stack slots in use below 0xFFF, the prescaler below `TIMER_DIV` (R37), and the fault record empty while running and matching the
last diagnostic record when halted (R36, 60_exceptions.md R204, R211). -/
def Obligations.EveryStepKeepsTheInvariant : Prop :=
  ∀ s t : State, s.Inv → step s = .next t → t.Inv

/-- A consumer that applies each record of each batch as "set pixel (x, y) to value" keeps up with the display
(43_display.md R165, derived there from R161 and R164): if its frame, replayed over the channel, is `Disp`, then so it is after any
step, whatever agent steps, from the all-zero frame at a reset on. -/
def Obligations.ConsumerReconstructsTheDisplay : Prop :=
  ∀ (s t : State) (frame : Display), replay frame s.channel = s.disp → step s = .next t →
    replay (frameAfter frame s.turn.1 s) t.channel = t.disp

/-- Only `Clear` and `Draw` change the display, and each execution of either emits exactly one batch, which takes the display before to
the display after and describes that instruction's changes only (43_display.md R160): every record holds its pixel's new value, and
every record of a `Draw` names a pixel whose value it changed (R164; `Clear` reports every pixel, R161). No other instruction emits
one, and a reset emits none. That an execution that raises changes nothing and emits none is the spec's D12 (log entry 17). -/
def Obligations.OnlyClearAndDrawTouchTheDisplay : Prop :=
  (∀ (i : Instr) (s t : State), s.halted = false → exec i s = .next t →
    (¬ writesDisplay i ∨ t.halted = true → t.disp = s.disp ∧ t.channel = s.channel) ∧
    (writesDisplay i → t.halted = false → ∃ b, t.channel = s.channel ++ [b] ∧ applyBatch s.disp b = t.disp ∧
      ∀ r ∈ b, Display.pixel t.disp r.x r.y = r.value ∧
        (i ≠ .clear → Display.pixel s.disp r.x r.y = !r.value))) ∧
  ∀ (s t : State) (rom : List Byte), agentStep (.reset rom) s = .next t → t.channel = []

/-- No instruction other than `Call` and `Ret` writes a stack slot or SP, `Ret` writes no slot, `Call` only the slot at SP
(10_state.md R30; the layout is the spec's D20). -/
def Obligations.OnlyCallAndRetTouchTheStack : Prop :=
  ∀ (i : Instr) (s t : State), exec i s = .next t →
    (¬ touchesStack i → t.sp = s.sp) ∧
    ((∀ nnn, i ≠ .call nnn) → t.stack = s.stack) ∧
    ∀ (k : Nat) (h : k < 16), k ≠ s.sp.val → t.stack[k] = s.stack[k]

/-- No instruction raises a key counter; only the three consuming instructions lower one, by exactly 1, and at most one counter in
an execution (10_state.md R32, 44_keys_timers.md R170). -/
def Obligations.OnlyKeyInstructionsConsumePresses : Prop :=
  ∀ (i : Instr) (s t : State), exec i s = .next t →
    (¬ consumesKeys i → t.keys = s.keys) ∧
    (t.keys = s.keys ∨ ∃ k, 0 < s.key k ∧ t.key k + 1 = s.key k ∧ ∀ j, j ≠ k → t.key j = s.key j)

/-- No instruction writes a register but its destination, and `VF` only as R21 says; a flag written is 0 or 1 (10_state.md R21,
R22; which instructions write `VF` is the spec's D5, and that the flag stands when `x` is 15 its D6). -/
def Obligations.OnlyDestinationRegistersChange : Prop :=
  ∀ (i : Instr) (s t : State), s.halted = false → exec i s = .next t →
    (∀ q, ¬ mayWrite q i → t.getV q = s.getV q) ∧
    (writesFlag i = true → t.halted = false → t.getV 0xF = 0x00 ∨ t.getV 0xF = 0x01)

/-- Only `Bcd` and `Store` write memory; `Bcd` no byte outside `I .. I+2` and `Store` none outside `I .. I+x` (20_memory.md R55,
R56). -/
def Obligations.OnlyBcdAndStoreWriteMemory : Prop :=
  ∀ (i : Instr) (s t : State), exec i s = .next t →
    (¬ writesMemory i → t.mem = s.mem) ∧
    (∀ x, i = .bcd x → ∀ a : Nat, (a < s.i.toNat ∨ s.i.toNat + 2 < a) → t.readMem a = s.readMem a) ∧
    (∀ x, i = .store x → ∀ a : Nat, (a < s.i.toNat ∨ s.i.toNat + x.toNat < a) → t.readMem a = s.readMem a)

/-- `I` is written only by `LoadI`, `AddI`, `LoadFont`, `Store` and `Load`, `DT` only by `SetDelay`, `ST` only by `SetSound`
(10_state.md R29, R31), and no instruction writes the tick latch, the prescaler or the schedule, or draws a random byte but
`Random` (60_exceptions.md R228). -/
def Obligations.SpecialRegistersHaveTheirWriters : Prop :=
  ∀ (i : Instr) (s t : State), exec i s = .next t →
    (¬ writesI i → t.i = s.i) ∧ ((∀ x, i ≠ .setDelay x) → t.dt = s.dt) ∧ ((∀ x, i ≠ .setSound x) → t.st = s.st) ∧
    ((∀ x kk, i ≠ .random x kk) → t.rndDraws = s.rndDraws) ∧
    t.tickPending = s.tickPending ∧ t.tickLost = s.tickLost ∧ t.tdiv = s.tdiv ∧ t.agenda = s.agenda

/-- PC advance accounting (10_state.md R25): an instruction that does not raise and is no jump adds exactly 2, a skip 2 or 4, and
`WaitKey` 2 or, with no key pressed, 0 (90_conflicts.md C5); an instruction that raises leaves `pc`. -/
def Obligations.PcAdvanceAccounting : Prop :=
  ∀ (i : Instr) (s t : State), s.halted = false → exec i s = .next t →
    (t.halted = true → t.pc = s.pc) ∧
    (t.halted = false → isJump i = false → isSkip i = false → (∀ x, i ≠ .waitKey x) → t.pc = s.pc + 2) ∧
    (t.halted = false → isSkip i = true → t.pc = s.pc + 2 ∨ t.pc = s.pc + 4) ∧
    (∀ x, i = .waitKey x → (∃ k, 0 < s.key k) → t.pc = s.pc + 2) ∧
    (∀ x, i = .waitKey x → (∀ k, s.key k = 0) → t = s)

/-- The idle loop (40_flow.md R102, derived there): a cycle at a `Jump` to its own address changes only `DT`, `ST` and `TDIV`, and
takes the tick from the latch (`agenda` is the model's own). -/
def Obligations.IdleLoopChangesOnlyTimers : Prop :=
  ∀ (s : State) (rest : List AgentStep) (nnn : Addr12), s.CycleTurn rest → s.pc.toNat = nnn.toNat → s.pc.toNat ≤ 0xFFE →
    decodeBytes s.bytesAtPc = .ok (.jump nnn, []) →
    ∃ t, step s = .next t ∧
      t = { s with tickPending := false, agenda := rest, tdiv := t.tdiv, dt := t.dt, st := t.st } ∧
      t.dt.toNat ≤ s.dt.toNat ∧ t.st.toNat ≤ s.st.toNat

/-- Stack round trip (95_test_vectors.md S9; 40_flow.md R103, R104): `Call` followed immediately by `Ret` leaves `pc` at its value
before plus 2 and the stack pointer where it was; only the slot it used keeps the pushed address. -/
def Obligations.CallThenRetReturnsPastTheCall : Prop :=
  ∀ (nnn : Addr12) (s : State), s.sp.val ≠ 16 →
    ∃ t u, exec (.call nnn) s = .next t ∧ exec .ret t = .next u ∧
      u.pc = s.pc + 2 ∧ u.sp = s.sp ∧ u = { s with pc := u.pc, stack := u.stack }

/-- Store and load round trip (42_index_memory.md R147, derived there): `Store(x)`, `I` set back, `Load(x)` leaves every register as
it was before the store. -/
def Obligations.StoreThenLoadRestoresRegisters : Prop :=
  ∀ (x : Reg) (nnn : Addr12) (s : State), s.i.toNat = nnn.toNat → s.i.toNat + x.toNat ≤ 0xFFF →
    ∃ t u w, exec (.store x) s = .next t ∧ exec (.loadI nnn) t = .next u ∧ exec (.load x) u = .next w ∧
      w.v = s.v ∧ w.i.toNat = s.i.toNat + x.toNat + 1 ∧ ∀ a, w.readMem a = t.readMem a

/-- Draw idempotence under double XOR (43_display.md R166, derived there): the same sprite drawn twice at the same place restores
the display; the second draw sets `VF` to 1 iff some 1 bit of the sprite lay on a pixel that was 0 before the first; the two
batches name the same pixels in the same order with complemented values. `x` and `y` are not `VF`, which the first draw
rewrites. -/
def Obligations.DrawingTwiceRestoresTheDisplay : Prop :=
  ∀ (x y : Reg) (n : Nibble) (s : State), x ≠ 0xF → y ≠ 0xF → (n = 0 ∨ s.i.toNat + n.toNat - 1 ≤ 0xFFF) →
    ∃ t u b, exec (.draw x y n) s = .next t ∧ exec (.draw x y n) t = .next u ∧
      u.disp = s.disp ∧
      (u.getV 0xF = 0x01 ↔ ∃ px py, s.SpriteHits (s.getV x) (s.getV y) n.toNat px py ∧ Display.pixel s.disp px py = false) ∧
      t.channel = s.channel ++ [b] ∧ u.channel = t.channel ++ [b.map fun r => { r with value := !r.value }]

/-! ## Control flow (40_flow.md) -/

/-- 40_flow.md R101: `Jump` sets `pc` absolutely, with no auto-advance, and changes nothing else. -/
def Obligations.JumpSetsPcAbsolutely : Prop :=
  ∀ (nnn : Addr12) (s : State), ∃ t, exec (.jump nnn) s = .next t ∧ t.pc.toNat = nnn.toNat ∧
    t = { s with pc := t.pc } ∧ ∀ a, t.readMem a = s.readMem a

/-- `JumpV0` (40_flow.md R105, a meaning the spec takes from general knowledge, D5): `pc` becomes `nnn + V0`, not wrapped, and
nothing else changes. -/
def Obligations.JumpV0AddsV0 : Prop :=
  ∀ (nnn : Addr12) (s : State), ∃ t, exec (.jumpV0 nnn) s = .next t ∧ t.pc.toNat = nnn.toNat + (s.getV 0).toNat ∧
    t = { s with pc := t.pc } ∧ ∀ a, t.readMem a = s.readMem a

/-- `Sys` (40_flow.md R106): a no-operation that is not logged, the spec's D4. -/
def Obligations.SysOnlyAdvances : Prop :=
  ∀ (nnn : Addr12) (s : State), ∃ t, exec (.sys nnn) s = .next t ∧ t.pc = s.pc + 2 ∧
    t = { s with pc := t.pc } ∧ t.diag = s.diag ∧ ∀ a, t.readMem a = s.readMem a

/-- `Call` (40_flow.md R104) pushes its own address and jumps; with 16 slots in use it raises STACK_OVERFLOW and pushes
nothing (what raising leaves is the spec's D12 and D13; log entries 6, 7; the slot numbering its D20). -/
def Obligations.CallPushesItsOwnAddress : Prop :=
  ∀ (nnn : Addr12) (s : State),
    (s.sp.val = 16 → exec (.call nnn) s = .next (s.raiseFatal .stackOverflow s.fetchedWord)) ∧
    (∀ h : s.sp.val < 16, ∃ t, exec (.call nnn) s = .next t ∧
      t.stack[s.sp.val] = s.pc ∧ t.sp.val = s.sp.val + 1 ∧ t.pc.toNat = nnn.toNat ∧
      (∀ (k : Nat) (hk : k < 16), k ≠ s.sp.val → t.stack[k] = s.stack[k]) ∧
      t = { s with pc := t.pc, sp := t.sp, stack := t.stack } ∧ ∀ a, t.readMem a = s.readMem a)

/-- `Ret` (40_flow.md R103) goes to the popped address plus 2, the slot keeping its content (the spec's D20); on an empty stack it
raises STACK_UNDERFLOW (what raising leaves is the spec's D12 and D13; log entries 6, 7). -/
def Obligations.RetGoesPastTheCall : Prop :=
  ∀ s : State,
    (s.sp.val = 0 → exec .ret s = .next (s.raiseFatal .stackUnderflow s.fetchedWord)) ∧
    (0 < s.sp.val → ∃ t, exec .ret s = .next t ∧
      (∀ h : s.sp.val - 1 < 16, t.pc = s.stack[s.sp.val - 1] + 2) ∧ t.sp.val + 1 = s.sp.val ∧
      t = { s with pc := t.pc, sp := t.sp } ∧ ∀ a, t.readMem a = s.readMem a)

/-- `SkipEqByte` and `SkipNeByte` (40_flow.md R107, R108; the conditions are the spec's general knowledge, D5): `pc` goes up by 4
when the condition holds and by 2 otherwise, and nothing else changes. -/
def Obligations.ByteSkipsTestTheirRegister : Prop :=
  ∀ (x : Reg) (kk : Byte) (s : State),
    (∃ t, exec (.skipEqByte x kk) s = .next t ∧ t = { s with pc := t.pc } ∧ (∀ a, t.readMem a = s.readMem a) ∧
      (s.getV x = kk → t.pc = s.pc + 4) ∧ (s.getV x ≠ kk → t.pc = s.pc + 2)) ∧
    (∃ t, exec (.skipNeByte x kk) s = .next t ∧ t = { s with pc := t.pc } ∧ (∀ a, t.readMem a = s.readMem a) ∧
      (s.getV x ≠ kk → t.pc = s.pc + 4) ∧ (s.getV x = kk → t.pc = s.pc + 2))

/-- `SkipEqReg` and `SkipNeReg` (40_flow.md R109, R110; the conditions are the spec's general knowledge, D5), `x = y` included. -/
def Obligations.RegisterSkipsCompareTheirRegisters : Prop :=
  ∀ (x y : Reg) (s : State),
    (∃ t, exec (.skipEqReg x y) s = .next t ∧ t = { s with pc := t.pc } ∧ (∀ a, t.readMem a = s.readMem a) ∧
      (s.getV x = s.getV y → t.pc = s.pc + 4) ∧ (s.getV x ≠ s.getV y → t.pc = s.pc + 2)) ∧
    (∃ t, exec (.skipNeReg x y) s = .next t ∧ t = { s with pc := t.pc } ∧ (∀ a, t.readMem a = s.readMem a) ∧
      (s.getV x ≠ s.getV y → t.pc = s.pc + 4) ∧ (s.getV x = s.getV y → t.pc = s.pc + 2))

/-! ## Registers, arithmetic, random (41_alu.md) -/

/-- `LoadByte`, `AddByte`, `Move` (41_alu.md R121 to R123; meanings the spec takes from general knowledge, D5): the destination
receives the value, `VF` is no flag here, and nothing but it and `pc` changes. -/
def Obligations.LoadsWriteOneRegister : Prop :=
  ∀ (x y : Reg) (kk : Byte) (s : State),
    (∃ t, exec (.loadByte x kk) s = .next t ∧ t.getV x = kk ∧ t.pc = s.pc + 2 ∧ (∀ q, q ≠ x → t.getV q = s.getV q) ∧
      t = { s with v := t.v, pc := t.pc } ∧ ∀ a, t.readMem a = s.readMem a) ∧
    (∃ t, exec (.addByte x kk) s = .next t ∧ (t.getV x).toNat = ((s.getV x).toNat + kk.toNat) % 256 ∧ t.pc = s.pc + 2 ∧
      (∀ q, q ≠ x → t.getV q = s.getV q) ∧ t = { s with v := t.v, pc := t.pc } ∧ ∀ a, t.readMem a = s.readMem a) ∧
    (∃ t, exec (.move x y) s = .next t ∧ t.getV x = s.getV y ∧ t.pc = s.pc + 2 ∧ (∀ q, q ≠ x → t.getV q = s.getV q) ∧
      t = { s with v := t.v, pc := t.pc } ∧ ∀ a, t.readMem a = s.readMem a)

/-- `Or`, `And`, `Xor` (41_alu.md R124 to R126; meanings from general knowledge, and `VF` not written, the spec's D5): bit by bit,
the result in `V[x]`, nothing else but `pc` changed. -/
def Obligations.LogicIsBitwise : Prop :=
  ∀ (x y : Reg) (s : State),
    (∃ t, exec (.or x y) s = .next t ∧ t.pc = s.pc + 2 ∧
      (∀ k, (t.getV x).getLsbD k = ((s.getV x).getLsbD k || (s.getV y).getLsbD k)) ∧
      (∀ q, q ≠ x → t.getV q = s.getV q) ∧ t = { s with v := t.v, pc := t.pc } ∧ ∀ a, t.readMem a = s.readMem a) ∧
    (∃ t, exec (.and x y) s = .next t ∧ t.pc = s.pc + 2 ∧
      (∀ k, (t.getV x).getLsbD k = ((s.getV x).getLsbD k && (s.getV y).getLsbD k)) ∧
      (∀ q, q ≠ x → t.getV q = s.getV q) ∧ t = { s with v := t.v, pc := t.pc } ∧ ∀ a, t.readMem a = s.readMem a) ∧
    (∃ t, exec (.xor x y) s = .next t ∧ t.pc = s.pc + 2 ∧
      (∀ k, (t.getV x).getLsbD k = ((s.getV x).getLsbD k ^^ (s.getV y).getLsbD k)) ∧
      (∀ q, q ≠ x → t.getV q = s.getV q) ∧ t = { s with v := t.v, pc := t.pc } ∧ ∀ a, t.readMem a = s.readMem a)

/-- `Add` (41_alu.md R127) stores the sum modulo 256 and sets `VF` to 1 iff the sum exceeds 255; with `x` = 15 the flag is what stays
(90_conflicts.md C7, the spec's D6), with `y` = 15 the old `VF` is the addend. -/
def Obligations.AddSetsCarry : Prop :=
  ∀ (x y : Reg) (s : State), ∃ t, exec (.add x y) s = .next t ∧ t.pc = s.pc + 2 ∧
    t.getV 0xF = (if 255 < (s.getV x).toNat + (s.getV y).toNat then 0x01 else 0x00) ∧
    (x ≠ 0xF → (t.getV x).toNat = ((s.getV x).toNat + (s.getV y).toNat) % 256) ∧
    (∀ q, q ≠ x → q ≠ 0xF → t.getV q = s.getV q) ∧
    t = { s with v := t.v, pc := t.pc } ∧ ∀ a, t.readMem a = s.readMem a

/-- `SubXY` and `SubYX` (41_alu.md R128, R130): `V[x] - V[y]` and `V[y] - V[x]`, both into `V[x]`, wrapping, with `VF` 1 iff there is no
borrow; with `x` = 15 the flag is what stays (the spec's D6). -/
def Obligations.SubtractionsSetNotBorrow : Prop :=
  ∀ (x y : Reg) (s : State),
    (∃ t, exec (.subXY x y) s = .next t ∧ t.pc = s.pc + 2 ∧
      t.getV 0xF = (if (s.getV y).toNat ≤ (s.getV x).toNat then 0x01 else 0x00) ∧
      (x ≠ 0xF → ((t.getV x).toNat : Int) = ((s.getV x).toNat - (s.getV y).toNat : Int) % 256) ∧
      (∀ q, q ≠ x → q ≠ 0xF → t.getV q = s.getV q) ∧
      t = { s with v := t.v, pc := t.pc } ∧ ∀ a, t.readMem a = s.readMem a) ∧
    (∃ t, exec (.subYX x y) s = .next t ∧ t.pc = s.pc + 2 ∧
      t.getV 0xF = (if (s.getV x).toNat ≤ (s.getV y).toNat then 0x01 else 0x00) ∧
      (x ≠ 0xF → ((t.getV x).toNat : Int) = ((s.getV y).toNat - (s.getV x).toNat : Int) % 256) ∧
      (∀ q, q ≠ x → q ≠ 0xF → t.getV q = s.getV q) ∧
      t = { s with v := t.v, pc := t.pc } ∧ ∀ a, t.readMem a = s.readMem a)

/-- `ShiftRight` and `ShiftLeft` (41_alu.md R129, R131) move `V[y]`, not `V[x]`, by one bit into `V[x]`; `VF` receives the bit shifted
out, and is what stays with `x` = 15 (the spec's D6). -/
def Obligations.ShiftsReadVy : Prop :=
  ∀ (x y : Reg) (s : State),
    (∃ t, exec (.shiftRight x y) s = .next t ∧ t.pc = s.pc + 2 ∧
      (t.getV 0xF).toNat = (s.getV y).toNat % 2 ∧
      (x ≠ 0xF → (t.getV x).toNat = (s.getV y).toNat / 2) ∧
      (∀ q, q ≠ x → q ≠ 0xF → t.getV q = s.getV q) ∧
      t = { s with v := t.v, pc := t.pc } ∧ ∀ a, t.readMem a = s.readMem a) ∧
    (∃ t, exec (.shiftLeft x y) s = .next t ∧ t.pc = s.pc + 2 ∧
      (t.getV 0xF).toNat = (s.getV y).toNat / 128 ∧
      (x ≠ 0xF → (t.getV x).toNat = (s.getV y).toNat * 2 % 256) ∧
      (∀ q, q ≠ x → q ≠ 0xF → t.getV q = s.getV q) ∧
      t = { s with v := t.v, pc := t.pc } ∧ ∀ a, t.readMem a = s.readMem a)

/-- `Random` (41_alu.md R132; 60_exceptions.md R228, the spec's D23) draws one fresh byte and masks it, so no bit outside `kk` is set; no flag is written. The draw is a free
value (log entry 3): the statement holds whatever it is. -/
def Obligations.RandomMasksAFreshDraw : Prop :=
  ∀ (x : Reg) (kk : Byte) (s : State), ∃ t, exec (.random x kk) s = .next t ∧ t.pc = s.pc + 2 ∧
    t.getV x = Config.rnd s.rndDraws &&& kk ∧ t.rndDraws = s.rndDraws + 1 ∧
    t.getV x &&& ~~~kk = 0x00 ∧ (kk = 0xFF → t.getV x = Config.rnd s.rndDraws) ∧
    (∀ q, q ≠ x → t.getV q = s.getV q) ∧
    t = { s with v := t.v, pc := t.pc, rndDraws := t.rndDraws } ∧ ∀ a, t.readMem a = s.readMem a

/-! ## Index register and memory (42_index_memory.md) -/

/-- `LoadI` and `LoadFont` (42_index_memory.md R141, R143; the spec's D5, D8, D9): `I` becomes `nnn`, or the address of the glyph, five
bytes each from FONT_BASE (0x000), the whole byte used; nothing else but `pc` changes. -/
def Obligations.IndexLoads : Prop :=
  ∀ (nnn : Addr12) (x : Reg) (s : State),
    (∃ t, exec (.loadI nnn) s = .next t ∧ t.i.toNat = nnn.toNat ∧ t.pc = s.pc + 2 ∧
      t = { s with i := t.i, pc := t.pc } ∧ ∀ a, t.readMem a = s.readMem a) ∧
    (∃ t, exec (.loadFont x) s = .next t ∧ t.i.toNat = 5 * (s.getV x).toNat ∧ t.pc = s.pc + 2 ∧
      t = { s with i := t.i, pc := t.pc } ∧ ∀ a, t.readMem a = s.readMem a)

/-- `AddI` (42_index_memory.md R142): the full 16-bit sum, above 0xFFF too, `VF` not written; a carry out of bit 15 is fatal and
leaves `I` (the spec's D5, D11). -/
def Obligations.AddIKeepsTheSumOrIsFatal : Prop :=
  ∀ (x : Reg) (s : State),
    (0xFFFF < s.i.toNat + (s.getV x).toNat → exec (.addI x) s = .next (s.raiseFatal .indexOverflow s.fetchedWord)) ∧
    (s.i.toNat + (s.getV x).toNat ≤ 0xFFFF → ∃ t, exec (.addI x) s = .next t ∧
      t.i.toNat = s.i.toNat + (s.getV x).toNat ∧ t.pc = s.pc + 2 ∧
      t = { s with i := t.i, pc := t.pc } ∧ ∀ a, t.readMem a = s.readMem a)

/-- `Bcd` (42_index_memory.md R144) stores the hundreds, tens and units digits at `I`, `I+1`, `I+2`; no other byte, no register and not
`I` changes; with `I > 0xFFD` it raises MEM_OUT_OF_RANGE and writes nothing (the spec's D12, D13; log entries 6, 7). -/
def Obligations.BcdStoresThreeDigits : Prop :=
  ∀ (x : Reg) (s : State),
    (0xFFD < s.i.toNat → exec (.bcd x) s = .next (s.raiseFatal .memOutOfRange s.fetchedWord)) ∧
    (s.i.toNat ≤ 0xFFD → ∃ t, exec (.bcd x) s = .next t ∧ t.pc = s.pc + 2 ∧
      (t.readMem s.i.toNat).toNat = (s.getV x).toNat / 100 ∧
      (t.readMem (s.i.toNat + 1)).toNat = (s.getV x).toNat / 10 % 10 ∧
      (t.readMem (s.i.toNat + 2)).toNat = (s.getV x).toNat % 10 ∧
      (∀ a : Nat, (a < s.i.toNat ∨ s.i.toNat + 2 < a) → t.readMem a = s.readMem a) ∧
      t = { s with mem := t.mem, pc := t.pc })

/-- `Store` (42_index_memory.md R145) writes `V0 .. Vx` from `I` on and advances `I` by `x + 1`; no other byte changes; if the last byte
would lie above 0xFFF it raises MEM_OUT_OF_RANGE, writes nothing and leaves `I` (the spec's D12, D13; log entries 6, 7). -/
def Obligations.StoreCopiesRegistersAndAdvancesI : Prop :=
  ∀ (x : Reg) (s : State),
    (0xFFF < s.i.toNat + x.toNat → exec (.store x) s = .next (s.raiseFatal .memOutOfRange s.fetchedWord)) ∧
    (s.i.toNat + x.toNat ≤ 0xFFF → ∃ t, exec (.store x) s = .next t ∧ t.pc = s.pc + 2 ∧
      (∀ q : Reg, q.toNat ≤ x.toNat → t.readMem (s.i.toNat + q.toNat) = s.getV q) ∧
      (∀ a : Nat, (a < s.i.toNat ∨ s.i.toNat + x.toNat < a) → t.readMem a = s.readMem a) ∧
      t.i.toNat = s.i.toNat + x.toNat + 1 ∧
      t = { s with mem := t.mem, i := t.i, pc := t.pc })

/-- `Load` (42_index_memory.md R146) reads the bytes from `I` on into `V0 .. Vx` and advances `I` by `x + 1`; the registers above and
all of memory stay; if the last byte would lie above 0xFFF it raises MEM_OUT_OF_RANGE and changes no register (the spec's D12,
D13; log entries 6, 7). -/
def Obligations.LoadFillsRegistersAndAdvancesI : Prop :=
  ∀ (x : Reg) (s : State),
    (0xFFF < s.i.toNat + x.toNat → exec (.load x) s = .next (s.raiseFatal .memOutOfRange s.fetchedWord)) ∧
    (s.i.toNat + x.toNat ≤ 0xFFF → ∃ t, exec (.load x) s = .next t ∧ t.pc = s.pc + 2 ∧
      (∀ q : Reg, q.toNat ≤ x.toNat → t.getV q = s.readMem (s.i.toNat + q.toNat)) ∧
      (∀ q : Reg, x.toNat < q.toNat → t.getV q = s.getV q) ∧
      t.i.toNat = s.i.toNat + x.toNat + 1 ∧
      t = { s with v := t.v, i := t.i, pc := t.pc } ∧ ∀ a, t.readMem a = s.readMem a)

/-! ## Display (43_display.md) -/

/-- `Clear` (43_display.md R161): every pixel 0 and one batch of 2048 records, one for each pixel, each 0, row by row (that order is
the spec's D21); `VF` is not written. -/
def Obligations.ClearBlanksAndReportsEveryPixel : Prop :=
  ∀ s : State, ∃ t b, exec .clear s = .next t ∧ t.pc = s.pc + 2 ∧
    (∀ x y, Display.pixel t.disp x y = false) ∧
    t.channel = s.channel ++ [b] ∧ b.length = 2048 ∧
    (∀ (k : Nat) (h : k < b.length), (b[k]).x.val = k % 64 ∧ (b[k]).y.val = k / 64 ∧ (b[k]).value = false) ∧
    t = { s with disp := t.disp, channel := t.channel, pc := t.pc } ∧ ∀ a, t.readMem a = s.readMem a

/-- `Draw` (43_display.md R162 to R165): every pixel under a 1 bit of the sprite is toggled, wrapping, and no other; `VF` is 1 iff a lit
pixel went dark; one batch with a record for each 1 bit in sprite order with its new value; `I` and memory stay; a last row above
0xFFF raises MEM_OUT_OF_RANGE with no effect. With `n` = 0 nothing is read or drawn (the spec's D27); the bit order is its D7, the
record order its D21. -/
def Obligations.DrawTogglesTheSprite : Prop :=
  ∀ (x y : Reg) (n : Nibble) (s : State),
    (1 ≤ n.toNat ∧ 0xFFF < s.i.toNat + n.toNat - 1 →
      exec (.draw x y n) s = .next (s.raiseFatal .memOutOfRange s.fetchedWord)) ∧
    (n.toNat = 0 ∨ s.i.toNat + n.toNat - 1 ≤ 0xFFF → ∃ t, exec (.draw x y n) s = .next t ∧ t.pc = s.pc + 2 ∧
      (∀ px py, s.SpriteHits (s.getV x) (s.getV y) n.toNat px py →
        Display.pixel t.disp px py = !Display.pixel s.disp px py) ∧
      (∀ px py, ¬ s.SpriteHits (s.getV x) (s.getV y) n.toNat px py →
        Display.pixel t.disp px py = Display.pixel s.disp px py) ∧
      (t.getV 0xF = 0x00 ∨ t.getV 0xF = 0x01) ∧
      (t.getV 0xF = 0x01 ↔
        ∃ px py, s.SpriteHits (s.getV x) (s.getV y) n.toNat px py ∧ Display.pixel s.disp px py = true) ∧
      t.channel = s.channel ++ [(List.range n.toNat).flatMap fun row =>
        ((List.range 8).filter fun col => (s.readMem (s.i.toNat + row)).getLsbD (7 - col)).map fun col =>
          ⟨Fin.ofNat 64 ((s.getV x).toNat + col), Fin.ofNat 32 ((s.getV y).toNat + row),
            !Display.pixel s.disp (Fin.ofNat 64 ((s.getV x).toNat + col)) (Fin.ofNat 32 ((s.getV y).toNat + row))⟩] ∧
      (∀ q, q ≠ 0xF → t.getV q = s.getV q) ∧
      t = { s with v := t.v, disp := t.disp, channel := t.channel, pc := t.pc } ∧ ∀ a, t.readMem a = s.readMem a)

/-! ## Keys and timers (44_keys_timers.md) -/

/-- `SkipOnKeyPressed` and `SkipOnKeyNotPressed` (44_keys_timers.md R171, R172): a pressed key uses up one press in both, the negative
test included; the first then skips and the second does not, and the other way round when the key is not pressed. A register above
0xF is fatal KEY_OUT_OF_RANGE (the spec's D10). -/
def Obligations.KeySkipsConsumeOnePress : Prop :=
  ∀ (x : Reg) (k : KeyId) (s : State),
    (0xF < (s.getV x).toNat →
      exec (.skipOnKeyPressed x) s = .next (s.raiseFatal .keyOutOfRange s.fetchedWord) ∧
      exec (.skipOnKeyNotPressed x) s = .next (s.raiseFatal .keyOutOfRange s.fetchedWord)) ∧
    ((s.getV x).toNat = k.toNat → 0 < s.key k →
      ∃ t u, exec (.skipOnKeyPressed x) s = .next t ∧ exec (.skipOnKeyNotPressed x) s = .next u ∧
        t.key k + 1 = s.key k ∧ (∀ j, j ≠ k → t.key j = s.key j) ∧ t.pc = s.pc + 4 ∧
        t = { s with keys := t.keys, pc := t.pc } ∧ (∀ a, t.readMem a = s.readMem a) ∧
        u.keys = t.keys ∧ u.pc = s.pc + 2 ∧ u = { s with keys := u.keys, pc := u.pc } ∧
        ∀ a, u.readMem a = s.readMem a) ∧
    ((s.getV x).toNat = k.toNat → s.key k = 0 →
      ∃ t u, exec (.skipOnKeyPressed x) s = .next t ∧ exec (.skipOnKeyNotPressed x) s = .next u ∧
        t.pc = s.pc + 2 ∧ t = { s with pc := t.pc } ∧ (∀ a, t.readMem a = s.readMem a) ∧
        u.pc = s.pc + 4 ∧ u = { s with pc := u.pc } ∧ ∀ a, u.readMem a = s.readMem a)

/-- `WaitKey` (44_keys_timers.md R173): the lowest pressed key goes to `V[x]` and uses up one press (that the first is the lowest is the
spec's D22); with no key pressed nothing changes, `pc` included. -/
def Obligations.WaitKeyTakesTheLowestKeyOrStalls : Prop :=
  ∀ (x : Reg) (s : State),
    (∀ k : KeyId, 0 < s.key k → (∀ j, j < k → s.key j = 0) →
      ∃ t, exec (.waitKey x) s = .next t ∧ (t.getV x).toNat = k.toNat ∧ t.key k + 1 = s.key k ∧
        (∀ j, j ≠ k → t.key j = s.key j) ∧ (∀ q, q ≠ x → t.getV q = s.getV q) ∧ t.pc = s.pc + 2 ∧
        t = { s with v := t.v, keys := t.keys, pc := t.pc } ∧ ∀ a, t.readMem a = s.readMem a) ∧
    ((∀ k, s.key k = 0) → exec (.waitKey x) s = .next s)

/-- `ReadDelay`, `SetDelay`, `SetSound` (44_keys_timers.md R174 to R176; meanings from general knowledge, the spec's D5): `DT` to `V[x]`,
`V[x]` to `DT`, `V[x]` to `ST`; the prescaler is not reset, and the tone follows `ST` (60_exceptions.md R220). -/
def Obligations.TimerMoves : Prop :=
  ∀ (x : Reg) (s : State),
    (∃ t, exec (.readDelay x) s = .next t ∧ t.getV x = s.dt ∧ t.pc = s.pc + 2 ∧ (∀ q, q ≠ x → t.getV q = s.getV q) ∧
      t = { s with v := t.v, pc := t.pc } ∧ ∀ a, t.readMem a = s.readMem a) ∧
    (∃ t, exec (.setDelay x) s = .next t ∧ t.dt = s.getV x ∧ t.pc = s.pc + 2 ∧ t.tdiv = s.tdiv ∧
      t = { s with dt := t.dt, pc := t.pc } ∧ ∀ a, t.readMem a = s.readMem a) ∧
    (∃ t, exec (.setSound x) s = .next t ∧ t.st = s.getV x ∧ t.pc = s.pc + 2 ∧ t.tdiv = s.tdiv ∧
      (t.tone = true ↔ s.getV x ≠ 0x00) ∧
      t = { s with st := t.st, pc := t.pc } ∧ ∀ a, t.readMem a = s.readMem a)
end

