-- ==== Sys2Proof/Laws/Decode.lean ====
section
/-!
SUPPORT. The fields of a word put together from fields, and the word put together from its own fields (30_encoding.md R71, R72).
-/

namespace Sys2Proof

theorem field_bits (w : Word) (start len k : Nat) :
    (w.extractLsb' start len).getLsbD k = (decide (k < len) && w.getLsbD (start + k)) :=
  BitVec.getLsbD_extractLsb' ..

@[simp] theorem fieldGroup_wordNNN (g : Nibble) (nnn : Addr12) : fieldGroup (wordNNN g nnn) = g := by
  refine BitVec.eq_of_getLsbD_eq fun k hk => ?_
  rw [fieldGroup, field_bits, wordNNN, BitVec.getLsbD_append]
  simp [hk]

@[simp] theorem fieldNNN_wordNNN (g : Nibble) (nnn : Addr12) : fieldNNN (wordNNN g nnn) = nnn := by
  refine BitVec.eq_of_getLsbD_eq fun k hk => ?_
  rw [fieldNNN, field_bits, wordNNN, BitVec.getLsbD_append]
  simp [hk]

@[simp] theorem fieldGroup_wordXKK (g : Nibble) (x : Reg) (kk : Byte) : fieldGroup (wordXKK g x kk) = g := by
  refine BitVec.eq_of_getLsbD_eq fun k hk => ?_
  rw [fieldGroup, field_bits, wordXKK, BitVec.getLsbD_append, BitVec.getLsbD_append]
  have h1 : ¬ 12 + k < 8 := by omega
  have h2 : ¬ 12 + k - 8 < 4 := by omega
  simp [hk, h1, h2, show 12 + k - 8 - 4 = k by omega]

@[simp] theorem fieldX_wordXKK (g : Nibble) (x : Reg) (kk : Byte) : fieldX (wordXKK g x kk) = x := by
  refine BitVec.eq_of_getLsbD_eq fun k hk => ?_
  rw [fieldX, field_bits, wordXKK, BitVec.getLsbD_append, BitVec.getLsbD_append]
  simp [hk]

@[simp] theorem fieldKK_wordXKK (g : Nibble) (x : Reg) (kk : Byte) : fieldKK (wordXKK g x kk) = kk := by
  refine BitVec.eq_of_getLsbD_eq fun k hk => ?_
  rw [fieldKK, field_bits, wordXKK, BitVec.getLsbD_append]
  simp [hk]

@[simp] theorem fieldGroup_wordXYN (g : Nibble) (x y : Reg) (n : Nibble) : fieldGroup (wordXYN g x y n) = g := by
  refine BitVec.eq_of_getLsbD_eq fun k hk => ?_
  rw [fieldGroup, field_bits, wordXYN, BitVec.getLsbD_append, BitVec.getLsbD_append, BitVec.getLsbD_append]
  have h1 : ¬ 12 + k < 4 := by omega
  have h2 : ¬ 12 + k - 4 < 4 := by omega
  have h3 : ¬ 12 + k - 4 - 4 < 4 := by omega
  simp [hk, h1, h2, h3, show 12 + k - 4 - 4 - 4 = k by omega]

@[simp] theorem fieldX_wordXYN (g : Nibble) (x y : Reg) (n : Nibble) : fieldX (wordXYN g x y n) = x := by
  refine BitVec.eq_of_getLsbD_eq fun k hk => ?_
  rw [fieldX, field_bits, wordXYN, BitVec.getLsbD_append, BitVec.getLsbD_append, BitVec.getLsbD_append]
  have h1 : ¬ 8 + k < 4 := by omega
  have h2 : ¬ 8 + k - 4 < 4 := by omega
  simp [hk, h1, h2, show 8 + k - 4 - 4 = k by omega]

@[simp] theorem fieldY_wordXYN (g : Nibble) (x y : Reg) (n : Nibble) : fieldY (wordXYN g x y n) = y := by
  refine BitVec.eq_of_getLsbD_eq fun k hk => ?_
  rw [fieldY, field_bits, wordXYN, BitVec.getLsbD_append, BitVec.getLsbD_append]
  simp [hk]

@[simp] theorem fieldN_wordXYN (g : Nibble) (x y : Reg) (n : Nibble) : fieldN (wordXYN g x y n) = n := by
  refine BitVec.eq_of_getLsbD_eq fun k hk => ?_
  rw [fieldN, field_bits, wordXYN, BitVec.getLsbD_append]
  simp [hk]

/-- A word is its group and address. -/
theorem wordNNN_fields (w : Word) : wordNNN (fieldGroup w) (fieldNNN w) = w := by
  refine BitVec.eq_of_getLsbD_eq fun k hk => ?_
  rw [wordNNN, BitVec.getLsbD_append, fieldGroup, fieldNNN, field_bits, field_bits]
  by_cases h : k < 12
  · simp [h]
  · simp [h, show k - 12 < 4 by omega, show 12 + (k - 12) = k by omega]

/-- A word is its group, `x` and `kk`. -/
theorem wordXKK_fields (w : Word) : wordXKK (fieldGroup w) (fieldX w) (fieldKK w) = w := by
  refine BitVec.eq_of_getLsbD_eq fun k hk => ?_
  rw [wordXKK, BitVec.getLsbD_append, BitVec.getLsbD_append, fieldGroup, fieldX, fieldKK, field_bits, field_bits, field_bits]
  by_cases h : k < 8
  · simp [h]
  · by_cases h' : k - 8 < 4
    · simp [h, h', show 8 + (k - 8) = k by omega]
    · simp [h, h', show k - 8 - 4 < 4 by omega, show 12 + (k - 8 - 4) = k by omega]

/-- A word is its four nibbles. -/
theorem wordXYN_fields (w : Word) : wordXYN (fieldGroup w) (fieldX w) (fieldY w) (fieldN w) = w := by
  refine BitVec.eq_of_getLsbD_eq fun k hk => ?_
  rw [wordXYN, BitVec.getLsbD_append, BitVec.getLsbD_append, BitVec.getLsbD_append, fieldGroup, fieldX, fieldY, fieldN,
    field_bits, field_bits, field_bits, field_bits]
  by_cases h : k < 4
  · simp [h]
  · by_cases h' : k - 4 < 4
    · simp [h, h', show 4 + (k - 4) = k by omega]
    · by_cases h'' : k - 4 - 4 < 4
      · simp [h, h', h'', show 8 + (k - 4 - 4) = k by omega]
      · simp [h, h', h'', show k - 4 - 4 - 4 < 4 by omega, show 12 + (k - 4 - 4 - 4) = k by omega]

/-- Two words of format NNN are equal only field by field. -/
theorem wordNNN_inj {g g' : Nibble} {a a' : Addr12} : wordNNN g a = wordNNN g' a' ↔ g = g' ∧ a = a' :=
  ⟨fun h => ⟨by simpa using congrArg fieldGroup h, by simpa using congrArg fieldNNN h⟩, by rintro ⟨rfl, rfl⟩; rfl⟩

/-- A word laid out in memory order and read back, high byte first, is itself (R70). -/
@[simp] theorem wordOfBytes_bytesOfWord (w : Word) : wordOfBytes (bytesOfWord w).1 (bytesOfWord w).2 = w := by
  refine BitVec.eq_of_getLsbD_eq fun k hk => ?_
  rw [wordOfBytes, bytesOfWord, BitVec.getLsbD_append, field_bits, field_bits]
  by_cases h : k < 8
  · simp [h]
  · simp [h, show k - 8 < 8 by omega, show 8 + (k - 8) = k by omega]

/-- The decoder on two bytes, high byte first, is the decoder on their word. -/
theorem decodeBytes_word (w : Word) (rest : List Byte) :
    decodeBytes ((bytesOfWord w).1 :: (bytesOfWord w).2 :: rest) =
      match decode w with
      | some i => .ok (i, rest)
      | none => .error (.unrecognised w) := by
  cases h : decode w <;> simp only [decodeBytes, wordOfBytes_bytesOfWord, h]

theorem decodeTableWord_eq (nbits w : Nat) : decodeTableWord nbits w = decode (tableWord nbits w) := by
  unfold decodeTableWord
  rw [decodeBytes_word]
  cases decode (tableWord nbits w) <;> rfl

/-! ### The decoder, group by group -/

/-- A word of another group than 0x0 is no literal word, so its group decides. -/
theorem decode_of_group_ne (w : Word) (h : fieldGroup w ≠ 0x0) : decode w = decodeGroup (fieldGroup w) w := by
  unfold decode
  rw [if_neg, if_neg]
  all_goals rintro rfl; exact h (by decide)

/-- In group 0x0, every word but the two literal ones is `Sys` (R81). -/
theorem decode_of_group_zero (w : Word) (h : fieldGroup w = 0x0) (h1 : fieldNNN w ≠ 0x0E0) (h2 : fieldNNN w ≠ 0x0EE) :
    decode w = some (.sys (fieldNNN w)) := by
  unfold decode
  rw [if_neg, if_neg, h]
  · rfl
  · rintro rfl; exact h2 (by decide)
  · rintro rfl; exact h1 (by decide)

theorem decode_wordNNN (g : Nibble) (nnn : Addr12) (h : g ≠ 0x0) :
    decode (wordNNN g nnn) = decodeGroup g (wordNNN g nnn) := by
  rw [decode_of_group_ne _ (by simpa using h), fieldGroup_wordNNN]

theorem decode_wordXKK (g : Nibble) (x : Reg) (kk : Byte) (h : g ≠ 0x0) :
    decode (wordXKK g x kk) = decodeGroup g (wordXKK g x kk) := by
  rw [decode_of_group_ne _ (by simpa using h), fieldGroup_wordXKK]

theorem decode_wordXYN (g : Nibble) (x y : Reg) (n : Nibble) (h : g ≠ 0x0) :
    decode (wordXYN g x y n) = decodeGroup g (wordXYN g x y n) := by
  rw [decode_of_group_ne _ (by simpa using h), fieldGroup_wordXYN]

/-! ### The fields as numbers (R71) -/

theorem fieldGroup_toNat (w : Word) : (fieldGroup w).toNat = w.toNat / 0x1000 := by
  have := w.isLt
  simp [fieldGroup, Nat.shiftRight_eq_div_pow]
  omega

theorem fieldX_toNat (w : Word) : (fieldX w).toNat = w.toNat / 0x100 % 0x10 := by
  simp [fieldX, Nat.shiftRight_eq_div_pow]

theorem fieldY_toNat (w : Word) : (fieldY w).toNat = w.toNat / 0x10 % 0x10 := by
  simp [fieldY, Nat.shiftRight_eq_div_pow]

theorem fieldN_toNat (w : Word) : (fieldN w).toNat = w.toNat % 0x10 := by simp [fieldN]

theorem fieldKK_toNat (w : Word) : (fieldKK w).toNat = w.toNat % 0x100 := by simp [fieldKK]

theorem fieldNNN_toNat (w : Word) : (fieldNNN w).toNat = w.toNat % 0x1000 := by simp [fieldNNN]

end Sys2Proof
end

