-- ==== Sys2Proof/Laws/State.lean ====
section
/-!
SUPPORT. What each named update does to each field of the state, one lemma per field per update, so that no proof unfolds a
record update. Then the same for the reads `getV`, `key` and `readMem` through an update that leaves them alone.
-/

namespace Sys2Proof.Machine

variable (s : State)

/-! ### setV -/

@[simp] theorem State.setV_v (r : Reg) (b : Byte) : (s.setV r b).v = s.v.set r.toNat b r.isLt := rfl
@[simp] theorem State.setV_i (r : Reg) (b : Byte) : (s.setV r b).i = s.i := rfl
@[simp] theorem State.setV_pc (r : Reg) (b : Byte) : (s.setV r b).pc = s.pc := rfl
@[simp] theorem State.setV_sp (r : Reg) (b : Byte) : (s.setV r b).sp = s.sp := rfl
@[simp] theorem State.setV_stack (r : Reg) (b : Byte) : (s.setV r b).stack = s.stack := rfl
@[simp] theorem State.setV_dt (r : Reg) (b : Byte) : (s.setV r b).dt = s.dt := rfl
@[simp] theorem State.setV_st (r : Reg) (b : Byte) : (s.setV r b).st = s.st := rfl
@[simp] theorem State.setV_keys (r : Reg) (b : Byte) : (s.setV r b).keys = s.keys := rfl
@[simp] theorem State.setV_disp (r : Reg) (b : Byte) : (s.setV r b).disp = s.disp := rfl
@[simp] theorem State.setV_mem (r : Reg) (b : Byte) : (s.setV r b).mem = s.mem := rfl
@[simp] theorem State.setV_halted (r : Reg) (b : Byte) : (s.setV r b).halted = s.halted := rfl
@[simp] theorem State.setV_faultCause (r : Reg) (b : Byte) : (s.setV r b).faultCause = s.faultCause := rfl
@[simp] theorem State.setV_faultPc (r : Reg) (b : Byte) : (s.setV r b).faultPc = s.faultPc := rfl
@[simp] theorem State.setV_faultWord (r : Reg) (b : Byte) : (s.setV r b).faultWord = s.faultWord := rfl
@[simp] theorem State.setV_tickPending (r : Reg) (b : Byte) : (s.setV r b).tickPending = s.tickPending := rfl
@[simp] theorem State.setV_tickLost (r : Reg) (b : Byte) : (s.setV r b).tickLost = s.tickLost := rfl
@[simp] theorem State.setV_tdiv (r : Reg) (b : Byte) : (s.setV r b).tdiv = s.tdiv := rfl
@[simp] theorem State.setV_channel (r : Reg) (b : Byte) : (s.setV r b).channel = s.channel := rfl
@[simp] theorem State.setV_diag (r : Reg) (b : Byte) : (s.setV r b).diag = s.diag := rfl
@[simp] theorem State.setV_rndDraws (r : Reg) (b : Byte) : (s.setV r b).rndDraws = s.rndDraws := rfl
@[simp] theorem State.setV_agenda (r : Reg) (b : Byte) : (s.setV r b).agenda = s.agenda := rfl
@[simp] theorem State.setV_key (r : Reg) (b : Byte) (q : KeyId) : (s.setV r b).key q = s.key q := rfl
@[simp] theorem State.setV_readMem (r : Reg) (b : Byte) (q : Nat) : (s.setV r b).readMem q = s.readMem q := rfl

/-! ### setVWithFlag -/

@[simp] theorem State.setVWithFlag_i (r : Reg) (b c : Byte) : (s.setVWithFlag r b c).i = s.i := rfl
@[simp] theorem State.setVWithFlag_pc (r : Reg) (b c : Byte) : (s.setVWithFlag r b c).pc = s.pc := rfl
@[simp] theorem State.setVWithFlag_sp (r : Reg) (b c : Byte) : (s.setVWithFlag r b c).sp = s.sp := rfl
@[simp] theorem State.setVWithFlag_stack (r : Reg) (b c : Byte) : (s.setVWithFlag r b c).stack = s.stack := rfl
@[simp] theorem State.setVWithFlag_dt (r : Reg) (b c : Byte) : (s.setVWithFlag r b c).dt = s.dt := rfl
@[simp] theorem State.setVWithFlag_st (r : Reg) (b c : Byte) : (s.setVWithFlag r b c).st = s.st := rfl
@[simp] theorem State.setVWithFlag_keys (r : Reg) (b c : Byte) : (s.setVWithFlag r b c).keys = s.keys := rfl
@[simp] theorem State.setVWithFlag_disp (r : Reg) (b c : Byte) : (s.setVWithFlag r b c).disp = s.disp := rfl
@[simp] theorem State.setVWithFlag_mem (r : Reg) (b c : Byte) : (s.setVWithFlag r b c).mem = s.mem := rfl
@[simp] theorem State.setVWithFlag_halted (r : Reg) (b c : Byte) : (s.setVWithFlag r b c).halted = s.halted := rfl
@[simp] theorem State.setVWithFlag_faultCause (r : Reg) (b c : Byte) : (s.setVWithFlag r b c).faultCause = s.faultCause := rfl
@[simp] theorem State.setVWithFlag_faultPc (r : Reg) (b c : Byte) : (s.setVWithFlag r b c).faultPc = s.faultPc := rfl
@[simp] theorem State.setVWithFlag_faultWord (r : Reg) (b c : Byte) : (s.setVWithFlag r b c).faultWord = s.faultWord := rfl
@[simp] theorem State.setVWithFlag_tickPending (r : Reg) (b c : Byte) : (s.setVWithFlag r b c).tickPending = s.tickPending := rfl
@[simp] theorem State.setVWithFlag_tickLost (r : Reg) (b c : Byte) : (s.setVWithFlag r b c).tickLost = s.tickLost := rfl
@[simp] theorem State.setVWithFlag_tdiv (r : Reg) (b c : Byte) : (s.setVWithFlag r b c).tdiv = s.tdiv := rfl
@[simp] theorem State.setVWithFlag_channel (r : Reg) (b c : Byte) : (s.setVWithFlag r b c).channel = s.channel := rfl
@[simp] theorem State.setVWithFlag_diag (r : Reg) (b c : Byte) : (s.setVWithFlag r b c).diag = s.diag := rfl
@[simp] theorem State.setVWithFlag_rndDraws (r : Reg) (b c : Byte) : (s.setVWithFlag r b c).rndDraws = s.rndDraws := rfl
@[simp] theorem State.setVWithFlag_agenda (r : Reg) (b c : Byte) : (s.setVWithFlag r b c).agenda = s.agenda := rfl
@[simp] theorem State.setVWithFlag_key (r : Reg) (b c : Byte) (q : KeyId) : (s.setVWithFlag r b c).key q = s.key q := rfl
@[simp] theorem State.setVWithFlag_readMem (r : Reg) (b c : Byte) (q : Nat) : (s.setVWithFlag r b c).readMem q = s.readMem q := rfl

/-! ### setI -/

@[simp] theorem State.setI_v (a : Word) : (s.setI a).v = s.v := rfl
@[simp] theorem State.setI_i (a : Word) : (s.setI a).i = a := rfl
@[simp] theorem State.setI_pc (a : Word) : (s.setI a).pc = s.pc := rfl
@[simp] theorem State.setI_sp (a : Word) : (s.setI a).sp = s.sp := rfl
@[simp] theorem State.setI_stack (a : Word) : (s.setI a).stack = s.stack := rfl
@[simp] theorem State.setI_dt (a : Word) : (s.setI a).dt = s.dt := rfl
@[simp] theorem State.setI_st (a : Word) : (s.setI a).st = s.st := rfl
@[simp] theorem State.setI_keys (a : Word) : (s.setI a).keys = s.keys := rfl
@[simp] theorem State.setI_disp (a : Word) : (s.setI a).disp = s.disp := rfl
@[simp] theorem State.setI_mem (a : Word) : (s.setI a).mem = s.mem := rfl
@[simp] theorem State.setI_halted (a : Word) : (s.setI a).halted = s.halted := rfl
@[simp] theorem State.setI_faultCause (a : Word) : (s.setI a).faultCause = s.faultCause := rfl
@[simp] theorem State.setI_faultPc (a : Word) : (s.setI a).faultPc = s.faultPc := rfl
@[simp] theorem State.setI_faultWord (a : Word) : (s.setI a).faultWord = s.faultWord := rfl
@[simp] theorem State.setI_tickPending (a : Word) : (s.setI a).tickPending = s.tickPending := rfl
@[simp] theorem State.setI_tickLost (a : Word) : (s.setI a).tickLost = s.tickLost := rfl
@[simp] theorem State.setI_tdiv (a : Word) : (s.setI a).tdiv = s.tdiv := rfl
@[simp] theorem State.setI_channel (a : Word) : (s.setI a).channel = s.channel := rfl
@[simp] theorem State.setI_diag (a : Word) : (s.setI a).diag = s.diag := rfl
@[simp] theorem State.setI_rndDraws (a : Word) : (s.setI a).rndDraws = s.rndDraws := rfl
@[simp] theorem State.setI_agenda (a : Word) : (s.setI a).agenda = s.agenda := rfl
@[simp] theorem State.setI_getV (a : Word) (q : Reg) : (s.setI a).getV q = s.getV q := rfl
@[simp] theorem State.setI_key (a : Word) (q : KeyId) : (s.setI a).key q = s.key q := rfl
@[simp] theorem State.setI_readMem (a : Word) (q : Nat) : (s.setI a).readMem q = s.readMem q := rfl

/-! ### setDT -/

@[simp] theorem State.setDT_v (b : Byte) : (s.setDT b).v = s.v := rfl
@[simp] theorem State.setDT_i (b : Byte) : (s.setDT b).i = s.i := rfl
@[simp] theorem State.setDT_pc (b : Byte) : (s.setDT b).pc = s.pc := rfl
@[simp] theorem State.setDT_sp (b : Byte) : (s.setDT b).sp = s.sp := rfl
@[simp] theorem State.setDT_stack (b : Byte) : (s.setDT b).stack = s.stack := rfl
@[simp] theorem State.setDT_dt (b : Byte) : (s.setDT b).dt = b := rfl
@[simp] theorem State.setDT_st (b : Byte) : (s.setDT b).st = s.st := rfl
@[simp] theorem State.setDT_keys (b : Byte) : (s.setDT b).keys = s.keys := rfl
@[simp] theorem State.setDT_disp (b : Byte) : (s.setDT b).disp = s.disp := rfl
@[simp] theorem State.setDT_mem (b : Byte) : (s.setDT b).mem = s.mem := rfl
@[simp] theorem State.setDT_halted (b : Byte) : (s.setDT b).halted = s.halted := rfl
@[simp] theorem State.setDT_faultCause (b : Byte) : (s.setDT b).faultCause = s.faultCause := rfl
@[simp] theorem State.setDT_faultPc (b : Byte) : (s.setDT b).faultPc = s.faultPc := rfl
@[simp] theorem State.setDT_faultWord (b : Byte) : (s.setDT b).faultWord = s.faultWord := rfl
@[simp] theorem State.setDT_tickPending (b : Byte) : (s.setDT b).tickPending = s.tickPending := rfl
@[simp] theorem State.setDT_tickLost (b : Byte) : (s.setDT b).tickLost = s.tickLost := rfl
@[simp] theorem State.setDT_tdiv (b : Byte) : (s.setDT b).tdiv = s.tdiv := rfl
@[simp] theorem State.setDT_channel (b : Byte) : (s.setDT b).channel = s.channel := rfl
@[simp] theorem State.setDT_diag (b : Byte) : (s.setDT b).diag = s.diag := rfl
@[simp] theorem State.setDT_rndDraws (b : Byte) : (s.setDT b).rndDraws = s.rndDraws := rfl
@[simp] theorem State.setDT_agenda (b : Byte) : (s.setDT b).agenda = s.agenda := rfl
@[simp] theorem State.setDT_getV (b : Byte) (q : Reg) : (s.setDT b).getV q = s.getV q := rfl
@[simp] theorem State.setDT_key (b : Byte) (q : KeyId) : (s.setDT b).key q = s.key q := rfl
@[simp] theorem State.setDT_readMem (b : Byte) (q : Nat) : (s.setDT b).readMem q = s.readMem q := rfl

/-! ### setST -/

@[simp] theorem State.setST_v (b : Byte) : (s.setST b).v = s.v := rfl
@[simp] theorem State.setST_i (b : Byte) : (s.setST b).i = s.i := rfl
@[simp] theorem State.setST_pc (b : Byte) : (s.setST b).pc = s.pc := rfl
@[simp] theorem State.setST_sp (b : Byte) : (s.setST b).sp = s.sp := rfl
@[simp] theorem State.setST_stack (b : Byte) : (s.setST b).stack = s.stack := rfl
@[simp] theorem State.setST_dt (b : Byte) : (s.setST b).dt = s.dt := rfl
@[simp] theorem State.setST_st (b : Byte) : (s.setST b).st = b := rfl
@[simp] theorem State.setST_keys (b : Byte) : (s.setST b).keys = s.keys := rfl
@[simp] theorem State.setST_disp (b : Byte) : (s.setST b).disp = s.disp := rfl
@[simp] theorem State.setST_mem (b : Byte) : (s.setST b).mem = s.mem := rfl
@[simp] theorem State.setST_halted (b : Byte) : (s.setST b).halted = s.halted := rfl
@[simp] theorem State.setST_faultCause (b : Byte) : (s.setST b).faultCause = s.faultCause := rfl
@[simp] theorem State.setST_faultPc (b : Byte) : (s.setST b).faultPc = s.faultPc := rfl
@[simp] theorem State.setST_faultWord (b : Byte) : (s.setST b).faultWord = s.faultWord := rfl
@[simp] theorem State.setST_tickPending (b : Byte) : (s.setST b).tickPending = s.tickPending := rfl
@[simp] theorem State.setST_tickLost (b : Byte) : (s.setST b).tickLost = s.tickLost := rfl
@[simp] theorem State.setST_tdiv (b : Byte) : (s.setST b).tdiv = s.tdiv := rfl
@[simp] theorem State.setST_channel (b : Byte) : (s.setST b).channel = s.channel := rfl
@[simp] theorem State.setST_diag (b : Byte) : (s.setST b).diag = s.diag := rfl
@[simp] theorem State.setST_rndDraws (b : Byte) : (s.setST b).rndDraws = s.rndDraws := rfl
@[simp] theorem State.setST_agenda (b : Byte) : (s.setST b).agenda = s.agenda := rfl
@[simp] theorem State.setST_getV (b : Byte) (q : Reg) : (s.setST b).getV q = s.getV q := rfl
@[simp] theorem State.setST_key (b : Byte) (q : KeyId) : (s.setST b).key q = s.key q := rfl
@[simp] theorem State.setST_readMem (b : Byte) (q : Nat) : (s.setST b).readMem q = s.readMem q := rfl

/-! ### applyNext -/

@[simp] theorem State.applyNext_v (n : NextPc) : (s.applyNext n).v = s.v := by cases n <;> rfl
@[simp] theorem State.applyNext_i (n : NextPc) : (s.applyNext n).i = s.i := by cases n <;> rfl
@[simp] theorem State.applyNext_sp (n : NextPc) : (s.applyNext n).sp = s.sp := by cases n <;> rfl
@[simp] theorem State.applyNext_stack (n : NextPc) : (s.applyNext n).stack = s.stack := by cases n <;> rfl
@[simp] theorem State.applyNext_dt (n : NextPc) : (s.applyNext n).dt = s.dt := by cases n <;> rfl
@[simp] theorem State.applyNext_st (n : NextPc) : (s.applyNext n).st = s.st := by cases n <;> rfl
@[simp] theorem State.applyNext_keys (n : NextPc) : (s.applyNext n).keys = s.keys := by cases n <;> rfl
@[simp] theorem State.applyNext_disp (n : NextPc) : (s.applyNext n).disp = s.disp := by cases n <;> rfl
@[simp] theorem State.applyNext_mem (n : NextPc) : (s.applyNext n).mem = s.mem := by cases n <;> rfl
@[simp] theorem State.applyNext_halted (n : NextPc) : (s.applyNext n).halted = s.halted := by cases n <;> rfl
@[simp] theorem State.applyNext_faultCause (n : NextPc) : (s.applyNext n).faultCause = s.faultCause := by cases n <;> rfl
@[simp] theorem State.applyNext_faultPc (n : NextPc) : (s.applyNext n).faultPc = s.faultPc := by cases n <;> rfl
@[simp] theorem State.applyNext_faultWord (n : NextPc) : (s.applyNext n).faultWord = s.faultWord := by cases n <;> rfl
@[simp] theorem State.applyNext_tickPending (n : NextPc) : (s.applyNext n).tickPending = s.tickPending := by cases n <;> rfl
@[simp] theorem State.applyNext_tickLost (n : NextPc) : (s.applyNext n).tickLost = s.tickLost := by cases n <;> rfl
@[simp] theorem State.applyNext_tdiv (n : NextPc) : (s.applyNext n).tdiv = s.tdiv := by cases n <;> rfl
@[simp] theorem State.applyNext_channel (n : NextPc) : (s.applyNext n).channel = s.channel := by cases n <;> rfl
@[simp] theorem State.applyNext_diag (n : NextPc) : (s.applyNext n).diag = s.diag := by cases n <;> rfl
@[simp] theorem State.applyNext_rndDraws (n : NextPc) : (s.applyNext n).rndDraws = s.rndDraws := by cases n <;> rfl
@[simp] theorem State.applyNext_agenda (n : NextPc) : (s.applyNext n).agenda = s.agenda := by cases n <;> rfl
@[simp] theorem State.applyNext_pc_advance : (s.applyNext .advance).pc = s.pc + 2 := rfl
@[simp] theorem State.applyNext_pc_skip : (s.applyNext .skip).pc = s.pc + 4 := rfl
@[simp] theorem State.applyNext_pc_stall : (s.applyNext .stall).pc = s.pc := rfl
@[simp] theorem State.applyNext_pc_jump (t : Word) : (s.applyNext (.jump t)).pc = t := rfl
@[simp] theorem State.applyNext_getV (n : NextPc) (q : Reg) : (s.applyNext n).getV q = s.getV q := by simp [State.getV]
@[simp] theorem State.applyNext_key (n : NextPc) (q : KeyId) : (s.applyNext n).key q = s.key q := by simp [State.key]
@[simp] theorem State.applyNext_readMem (n : NextPc) (q : Nat) : (s.applyNext n).readMem q = s.readMem q := by simp [State.readMem]

/-! ### storeBytes -/

@[simp] theorem State.storeBytes_v (a : Nat) (bs : List Byte) : (s.storeBytes a bs).v = s.v := rfl
@[simp] theorem State.storeBytes_i (a : Nat) (bs : List Byte) : (s.storeBytes a bs).i = s.i := rfl
@[simp] theorem State.storeBytes_pc (a : Nat) (bs : List Byte) : (s.storeBytes a bs).pc = s.pc := rfl
@[simp] theorem State.storeBytes_sp (a : Nat) (bs : List Byte) : (s.storeBytes a bs).sp = s.sp := rfl
@[simp] theorem State.storeBytes_stack (a : Nat) (bs : List Byte) : (s.storeBytes a bs).stack = s.stack := rfl
@[simp] theorem State.storeBytes_dt (a : Nat) (bs : List Byte) : (s.storeBytes a bs).dt = s.dt := rfl
@[simp] theorem State.storeBytes_st (a : Nat) (bs : List Byte) : (s.storeBytes a bs).st = s.st := rfl
@[simp] theorem State.storeBytes_keys (a : Nat) (bs : List Byte) : (s.storeBytes a bs).keys = s.keys := rfl
@[simp] theorem State.storeBytes_disp (a : Nat) (bs : List Byte) : (s.storeBytes a bs).disp = s.disp := rfl
@[simp] theorem State.storeBytes_mem (a : Nat) (bs : List Byte) : (s.storeBytes a bs).mem = Memory.writeList s.mem a bs := rfl
@[simp] theorem State.storeBytes_halted (a : Nat) (bs : List Byte) : (s.storeBytes a bs).halted = s.halted := rfl
@[simp] theorem State.storeBytes_faultCause (a : Nat) (bs : List Byte) : (s.storeBytes a bs).faultCause = s.faultCause := rfl
@[simp] theorem State.storeBytes_faultPc (a : Nat) (bs : List Byte) : (s.storeBytes a bs).faultPc = s.faultPc := rfl
@[simp] theorem State.storeBytes_faultWord (a : Nat) (bs : List Byte) : (s.storeBytes a bs).faultWord = s.faultWord := rfl
@[simp] theorem State.storeBytes_tickPending (a : Nat) (bs : List Byte) : (s.storeBytes a bs).tickPending = s.tickPending := rfl
@[simp] theorem State.storeBytes_tickLost (a : Nat) (bs : List Byte) : (s.storeBytes a bs).tickLost = s.tickLost := rfl
@[simp] theorem State.storeBytes_tdiv (a : Nat) (bs : List Byte) : (s.storeBytes a bs).tdiv = s.tdiv := rfl
@[simp] theorem State.storeBytes_channel (a : Nat) (bs : List Byte) : (s.storeBytes a bs).channel = s.channel := rfl
@[simp] theorem State.storeBytes_diag (a : Nat) (bs : List Byte) : (s.storeBytes a bs).diag = s.diag := rfl
@[simp] theorem State.storeBytes_rndDraws (a : Nat) (bs : List Byte) : (s.storeBytes a bs).rndDraws = s.rndDraws := rfl
@[simp] theorem State.storeBytes_agenda (a : Nat) (bs : List Byte) : (s.storeBytes a bs).agenda = s.agenda := rfl
@[simp] theorem State.storeBytes_getV (a : Nat) (bs : List Byte) (q : Reg) : (s.storeBytes a bs).getV q = s.getV q := rfl
@[simp] theorem State.storeBytes_key (a : Nat) (bs : List Byte) (q : KeyId) : (s.storeBytes a bs).key q = s.key q := rfl

/-! ### push -/

@[simp] theorem State.push_v (a : Word) : (s.push a).v = s.v := by unfold State.push; split <;> rfl
@[simp] theorem State.push_i (a : Word) : (s.push a).i = s.i := by unfold State.push; split <;> rfl
@[simp] theorem State.push_pc (a : Word) : (s.push a).pc = s.pc := by unfold State.push; split <;> rfl
@[simp] theorem State.push_dt (a : Word) : (s.push a).dt = s.dt := by unfold State.push; split <;> rfl
@[simp] theorem State.push_st (a : Word) : (s.push a).st = s.st := by unfold State.push; split <;> rfl
@[simp] theorem State.push_keys (a : Word) : (s.push a).keys = s.keys := by unfold State.push; split <;> rfl
@[simp] theorem State.push_disp (a : Word) : (s.push a).disp = s.disp := by unfold State.push; split <;> rfl
@[simp] theorem State.push_mem (a : Word) : (s.push a).mem = s.mem := by unfold State.push; split <;> rfl
@[simp] theorem State.push_halted (a : Word) : (s.push a).halted = s.halted := by unfold State.push; split <;> rfl
@[simp] theorem State.push_faultCause (a : Word) : (s.push a).faultCause = s.faultCause := by unfold State.push; split <;> rfl
@[simp] theorem State.push_faultPc (a : Word) : (s.push a).faultPc = s.faultPc := by unfold State.push; split <;> rfl
@[simp] theorem State.push_faultWord (a : Word) : (s.push a).faultWord = s.faultWord := by unfold State.push; split <;> rfl
@[simp] theorem State.push_tickPending (a : Word) : (s.push a).tickPending = s.tickPending := by unfold State.push; split <;> rfl
@[simp] theorem State.push_tickLost (a : Word) : (s.push a).tickLost = s.tickLost := by unfold State.push; split <;> rfl
@[simp] theorem State.push_tdiv (a : Word) : (s.push a).tdiv = s.tdiv := by unfold State.push; split <;> rfl
@[simp] theorem State.push_channel (a : Word) : (s.push a).channel = s.channel := by unfold State.push; split <;> rfl
@[simp] theorem State.push_diag (a : Word) : (s.push a).diag = s.diag := by unfold State.push; split <;> rfl
@[simp] theorem State.push_rndDraws (a : Word) : (s.push a).rndDraws = s.rndDraws := by unfold State.push; split <;> rfl
@[simp] theorem State.push_agenda (a : Word) : (s.push a).agenda = s.agenda := by unfold State.push; split <;> rfl
@[simp] theorem State.push_getV (a : Word) (q : Reg) : (s.push a).getV q = s.getV q := by simp [State.getV]
@[simp] theorem State.push_key (a : Word) (q : KeyId) : (s.push a).key q = s.key q := by simp [State.key]
@[simp] theorem State.push_readMem (a : Word) (q : Nat) : (s.push a).readMem q = s.readMem q := by simp [State.readMem]

/-! ### dropTop -/

@[simp] theorem State.dropTop_v : (s.dropTop).v = s.v := rfl
@[simp] theorem State.dropTop_i : (s.dropTop).i = s.i := rfl
@[simp] theorem State.dropTop_pc : (s.dropTop).pc = s.pc := rfl
@[simp] theorem State.dropTop_stack : (s.dropTop).stack = s.stack := rfl
@[simp] theorem State.dropTop_dt : (s.dropTop).dt = s.dt := rfl
@[simp] theorem State.dropTop_st : (s.dropTop).st = s.st := rfl
@[simp] theorem State.dropTop_keys : (s.dropTop).keys = s.keys := rfl
@[simp] theorem State.dropTop_disp : (s.dropTop).disp = s.disp := rfl
@[simp] theorem State.dropTop_mem : (s.dropTop).mem = s.mem := rfl
@[simp] theorem State.dropTop_halted : (s.dropTop).halted = s.halted := rfl
@[simp] theorem State.dropTop_faultCause : (s.dropTop).faultCause = s.faultCause := rfl
@[simp] theorem State.dropTop_faultPc : (s.dropTop).faultPc = s.faultPc := rfl
@[simp] theorem State.dropTop_faultWord : (s.dropTop).faultWord = s.faultWord := rfl
@[simp] theorem State.dropTop_tickPending : (s.dropTop).tickPending = s.tickPending := rfl
@[simp] theorem State.dropTop_tickLost : (s.dropTop).tickLost = s.tickLost := rfl
@[simp] theorem State.dropTop_tdiv : (s.dropTop).tdiv = s.tdiv := rfl
@[simp] theorem State.dropTop_channel : (s.dropTop).channel = s.channel := rfl
@[simp] theorem State.dropTop_diag : (s.dropTop).diag = s.diag := rfl
@[simp] theorem State.dropTop_rndDraws : (s.dropTop).rndDraws = s.rndDraws := rfl
@[simp] theorem State.dropTop_agenda : (s.dropTop).agenda = s.agenda := rfl
@[simp] theorem State.dropTop_getV (q : Reg) : (s.dropTop).getV q = s.getV q := rfl
@[simp] theorem State.dropTop_key (q : KeyId) : (s.dropTop).key q = s.key q := rfl
@[simp] theorem State.dropTop_readMem (q : Nat) : (s.dropTop).readMem q = s.readMem q := rfl

/-! ### setKey -/

@[simp] theorem State.setKey_v (k : KeyId) (n : Nat) : (s.setKey k n).v = s.v := rfl
@[simp] theorem State.setKey_i (k : KeyId) (n : Nat) : (s.setKey k n).i = s.i := rfl
@[simp] theorem State.setKey_pc (k : KeyId) (n : Nat) : (s.setKey k n).pc = s.pc := rfl
@[simp] theorem State.setKey_sp (k : KeyId) (n : Nat) : (s.setKey k n).sp = s.sp := rfl
@[simp] theorem State.setKey_stack (k : KeyId) (n : Nat) : (s.setKey k n).stack = s.stack := rfl
@[simp] theorem State.setKey_dt (k : KeyId) (n : Nat) : (s.setKey k n).dt = s.dt := rfl
@[simp] theorem State.setKey_st (k : KeyId) (n : Nat) : (s.setKey k n).st = s.st := rfl
@[simp] theorem State.setKey_keys (k : KeyId) (n : Nat) : (s.setKey k n).keys = s.keys.set k.toNat n k.isLt := rfl
@[simp] theorem State.setKey_disp (k : KeyId) (n : Nat) : (s.setKey k n).disp = s.disp := rfl
@[simp] theorem State.setKey_mem (k : KeyId) (n : Nat) : (s.setKey k n).mem = s.mem := rfl
@[simp] theorem State.setKey_halted (k : KeyId) (n : Nat) : (s.setKey k n).halted = s.halted := rfl
@[simp] theorem State.setKey_faultCause (k : KeyId) (n : Nat) : (s.setKey k n).faultCause = s.faultCause := rfl
@[simp] theorem State.setKey_faultPc (k : KeyId) (n : Nat) : (s.setKey k n).faultPc = s.faultPc := rfl
@[simp] theorem State.setKey_faultWord (k : KeyId) (n : Nat) : (s.setKey k n).faultWord = s.faultWord := rfl
@[simp] theorem State.setKey_tickPending (k : KeyId) (n : Nat) : (s.setKey k n).tickPending = s.tickPending := rfl
@[simp] theorem State.setKey_tickLost (k : KeyId) (n : Nat) : (s.setKey k n).tickLost = s.tickLost := rfl
@[simp] theorem State.setKey_tdiv (k : KeyId) (n : Nat) : (s.setKey k n).tdiv = s.tdiv := rfl
@[simp] theorem State.setKey_channel (k : KeyId) (n : Nat) : (s.setKey k n).channel = s.channel := rfl
@[simp] theorem State.setKey_diag (k : KeyId) (n : Nat) : (s.setKey k n).diag = s.diag := rfl
@[simp] theorem State.setKey_rndDraws (k : KeyId) (n : Nat) : (s.setKey k n).rndDraws = s.rndDraws := rfl
@[simp] theorem State.setKey_agenda (k : KeyId) (n : Nat) : (s.setKey k n).agenda = s.agenda := rfl
@[simp] theorem State.setKey_getV (k : KeyId) (n : Nat) (q : Reg) : (s.setKey k n).getV q = s.getV q := rfl
@[simp] theorem State.setKey_readMem (k : KeyId) (n : Nat) (q : Nat) : (s.setKey k n).readMem q = s.readMem q := rfl

/-! ### consumeKey -/

@[simp] theorem State.consumeKey_v (k : KeyId) : (s.consumeKey k).v = s.v := rfl
@[simp] theorem State.consumeKey_i (k : KeyId) : (s.consumeKey k).i = s.i := rfl
@[simp] theorem State.consumeKey_pc (k : KeyId) : (s.consumeKey k).pc = s.pc := rfl
@[simp] theorem State.consumeKey_sp (k : KeyId) : (s.consumeKey k).sp = s.sp := rfl
@[simp] theorem State.consumeKey_stack (k : KeyId) : (s.consumeKey k).stack = s.stack := rfl
@[simp] theorem State.consumeKey_dt (k : KeyId) : (s.consumeKey k).dt = s.dt := rfl
@[simp] theorem State.consumeKey_st (k : KeyId) : (s.consumeKey k).st = s.st := rfl
@[simp] theorem State.consumeKey_disp (k : KeyId) : (s.consumeKey k).disp = s.disp := rfl
@[simp] theorem State.consumeKey_mem (k : KeyId) : (s.consumeKey k).mem = s.mem := rfl
@[simp] theorem State.consumeKey_halted (k : KeyId) : (s.consumeKey k).halted = s.halted := rfl
@[simp] theorem State.consumeKey_faultCause (k : KeyId) : (s.consumeKey k).faultCause = s.faultCause := rfl
@[simp] theorem State.consumeKey_faultPc (k : KeyId) : (s.consumeKey k).faultPc = s.faultPc := rfl
@[simp] theorem State.consumeKey_faultWord (k : KeyId) : (s.consumeKey k).faultWord = s.faultWord := rfl
@[simp] theorem State.consumeKey_tickPending (k : KeyId) : (s.consumeKey k).tickPending = s.tickPending := rfl
@[simp] theorem State.consumeKey_tickLost (k : KeyId) : (s.consumeKey k).tickLost = s.tickLost := rfl
@[simp] theorem State.consumeKey_tdiv (k : KeyId) : (s.consumeKey k).tdiv = s.tdiv := rfl
@[simp] theorem State.consumeKey_channel (k : KeyId) : (s.consumeKey k).channel = s.channel := rfl
@[simp] theorem State.consumeKey_diag (k : KeyId) : (s.consumeKey k).diag = s.diag := rfl
@[simp] theorem State.consumeKey_rndDraws (k : KeyId) : (s.consumeKey k).rndDraws = s.rndDraws := rfl
@[simp] theorem State.consumeKey_agenda (k : KeyId) : (s.consumeKey k).agenda = s.agenda := rfl
@[simp] theorem State.consumeKey_getV (k : KeyId) (q : Reg) : (s.consumeKey k).getV q = s.getV q := rfl
@[simp] theorem State.consumeKey_readMem (k : KeyId) (q : Nat) : (s.consumeKey k).readMem q = s.readMem q := rfl

/-! ### setDisp -/

@[simp] theorem State.setDisp_v (d : Display) : (s.setDisp d).v = s.v := rfl
@[simp] theorem State.setDisp_i (d : Display) : (s.setDisp d).i = s.i := rfl
@[simp] theorem State.setDisp_pc (d : Display) : (s.setDisp d).pc = s.pc := rfl
@[simp] theorem State.setDisp_sp (d : Display) : (s.setDisp d).sp = s.sp := rfl
@[simp] theorem State.setDisp_stack (d : Display) : (s.setDisp d).stack = s.stack := rfl
@[simp] theorem State.setDisp_dt (d : Display) : (s.setDisp d).dt = s.dt := rfl
@[simp] theorem State.setDisp_st (d : Display) : (s.setDisp d).st = s.st := rfl
@[simp] theorem State.setDisp_keys (d : Display) : (s.setDisp d).keys = s.keys := rfl
@[simp] theorem State.setDisp_disp (d : Display) : (s.setDisp d).disp = d := rfl
@[simp] theorem State.setDisp_mem (d : Display) : (s.setDisp d).mem = s.mem := rfl
@[simp] theorem State.setDisp_halted (d : Display) : (s.setDisp d).halted = s.halted := rfl
@[simp] theorem State.setDisp_faultCause (d : Display) : (s.setDisp d).faultCause = s.faultCause := rfl
@[simp] theorem State.setDisp_faultPc (d : Display) : (s.setDisp d).faultPc = s.faultPc := rfl
@[simp] theorem State.setDisp_faultWord (d : Display) : (s.setDisp d).faultWord = s.faultWord := rfl
@[simp] theorem State.setDisp_tickPending (d : Display) : (s.setDisp d).tickPending = s.tickPending := rfl
@[simp] theorem State.setDisp_tickLost (d : Display) : (s.setDisp d).tickLost = s.tickLost := rfl
@[simp] theorem State.setDisp_tdiv (d : Display) : (s.setDisp d).tdiv = s.tdiv := rfl
@[simp] theorem State.setDisp_channel (d : Display) : (s.setDisp d).channel = s.channel := rfl
@[simp] theorem State.setDisp_diag (d : Display) : (s.setDisp d).diag = s.diag := rfl
@[simp] theorem State.setDisp_rndDraws (d : Display) : (s.setDisp d).rndDraws = s.rndDraws := rfl
@[simp] theorem State.setDisp_agenda (d : Display) : (s.setDisp d).agenda = s.agenda := rfl
@[simp] theorem State.setDisp_getV (d : Display) (q : Reg) : (s.setDisp d).getV q = s.getV q := rfl
@[simp] theorem State.setDisp_key (d : Display) (q : KeyId) : (s.setDisp d).key q = s.key q := rfl
@[simp] theorem State.setDisp_readMem (d : Display) (q : Nat) : (s.setDisp d).readMem q = s.readMem q := rfl

/-! ### emit -/

@[simp] theorem State.emit_v (b : Batch) : (s.emit b).v = s.v := rfl
@[simp] theorem State.emit_i (b : Batch) : (s.emit b).i = s.i := rfl
@[simp] theorem State.emit_pc (b : Batch) : (s.emit b).pc = s.pc := rfl
@[simp] theorem State.emit_sp (b : Batch) : (s.emit b).sp = s.sp := rfl
@[simp] theorem State.emit_stack (b : Batch) : (s.emit b).stack = s.stack := rfl
@[simp] theorem State.emit_dt (b : Batch) : (s.emit b).dt = s.dt := rfl
@[simp] theorem State.emit_st (b : Batch) : (s.emit b).st = s.st := rfl
@[simp] theorem State.emit_keys (b : Batch) : (s.emit b).keys = s.keys := rfl
@[simp] theorem State.emit_disp (b : Batch) : (s.emit b).disp = s.disp := rfl
@[simp] theorem State.emit_mem (b : Batch) : (s.emit b).mem = s.mem := rfl
@[simp] theorem State.emit_halted (b : Batch) : (s.emit b).halted = s.halted := rfl
@[simp] theorem State.emit_faultCause (b : Batch) : (s.emit b).faultCause = s.faultCause := rfl
@[simp] theorem State.emit_faultPc (b : Batch) : (s.emit b).faultPc = s.faultPc := rfl
@[simp] theorem State.emit_faultWord (b : Batch) : (s.emit b).faultWord = s.faultWord := rfl
@[simp] theorem State.emit_tickPending (b : Batch) : (s.emit b).tickPending = s.tickPending := rfl
@[simp] theorem State.emit_tickLost (b : Batch) : (s.emit b).tickLost = s.tickLost := rfl
@[simp] theorem State.emit_tdiv (b : Batch) : (s.emit b).tdiv = s.tdiv := rfl
@[simp] theorem State.emit_channel (b : Batch) : (s.emit b).channel = s.channel ++ [b] := rfl
@[simp] theorem State.emit_diag (b : Batch) : (s.emit b).diag = s.diag := rfl
@[simp] theorem State.emit_rndDraws (b : Batch) : (s.emit b).rndDraws = s.rndDraws := rfl
@[simp] theorem State.emit_agenda (b : Batch) : (s.emit b).agenda = s.agenda := rfl
@[simp] theorem State.emit_getV (b : Batch) (q : Reg) : (s.emit b).getV q = s.getV q := rfl
@[simp] theorem State.emit_key (b : Batch) (q : KeyId) : (s.emit b).key q = s.key q := rfl
@[simp] theorem State.emit_readMem (b : Batch) (q : Nat) : (s.emit b).readMem q = s.readMem q := rfl

/-! ### log -/

@[simp] theorem State.log_v (r : DiagRecord) : (s.log r).v = s.v := rfl
@[simp] theorem State.log_i (r : DiagRecord) : (s.log r).i = s.i := rfl
@[simp] theorem State.log_pc (r : DiagRecord) : (s.log r).pc = s.pc := rfl
@[simp] theorem State.log_sp (r : DiagRecord) : (s.log r).sp = s.sp := rfl
@[simp] theorem State.log_stack (r : DiagRecord) : (s.log r).stack = s.stack := rfl
@[simp] theorem State.log_dt (r : DiagRecord) : (s.log r).dt = s.dt := rfl
@[simp] theorem State.log_st (r : DiagRecord) : (s.log r).st = s.st := rfl
@[simp] theorem State.log_keys (r : DiagRecord) : (s.log r).keys = s.keys := rfl
@[simp] theorem State.log_disp (r : DiagRecord) : (s.log r).disp = s.disp := rfl
@[simp] theorem State.log_mem (r : DiagRecord) : (s.log r).mem = s.mem := rfl
@[simp] theorem State.log_halted (r : DiagRecord) : (s.log r).halted = s.halted := rfl
@[simp] theorem State.log_faultCause (r : DiagRecord) : (s.log r).faultCause = s.faultCause := rfl
@[simp] theorem State.log_faultPc (r : DiagRecord) : (s.log r).faultPc = s.faultPc := rfl
@[simp] theorem State.log_faultWord (r : DiagRecord) : (s.log r).faultWord = s.faultWord := rfl
@[simp] theorem State.log_tickPending (r : DiagRecord) : (s.log r).tickPending = s.tickPending := rfl
@[simp] theorem State.log_tickLost (r : DiagRecord) : (s.log r).tickLost = s.tickLost := rfl
@[simp] theorem State.log_tdiv (r : DiagRecord) : (s.log r).tdiv = s.tdiv := rfl
@[simp] theorem State.log_channel (r : DiagRecord) : (s.log r).channel = s.channel := rfl
@[simp] theorem State.log_diag (r : DiagRecord) : (s.log r).diag = s.diag ++ [r] := rfl
@[simp] theorem State.log_rndDraws (r : DiagRecord) : (s.log r).rndDraws = s.rndDraws := rfl
@[simp] theorem State.log_agenda (r : DiagRecord) : (s.log r).agenda = s.agenda := rfl
@[simp] theorem State.log_getV (r : DiagRecord) (q : Reg) : (s.log r).getV q = s.getV q := rfl
@[simp] theorem State.log_key (r : DiagRecord) (q : KeyId) : (s.log r).key q = s.key q := rfl
@[simp] theorem State.log_readMem (r : DiagRecord) (q : Nat) : (s.log r).readMem q = s.readMem q := rfl

/-! ### countDraw -/

@[simp] theorem State.countDraw_v : (s.countDraw).v = s.v := rfl
@[simp] theorem State.countDraw_i : (s.countDraw).i = s.i := rfl
@[simp] theorem State.countDraw_pc : (s.countDraw).pc = s.pc := rfl
@[simp] theorem State.countDraw_sp : (s.countDraw).sp = s.sp := rfl
@[simp] theorem State.countDraw_stack : (s.countDraw).stack = s.stack := rfl
@[simp] theorem State.countDraw_dt : (s.countDraw).dt = s.dt := rfl
@[simp] theorem State.countDraw_st : (s.countDraw).st = s.st := rfl
@[simp] theorem State.countDraw_keys : (s.countDraw).keys = s.keys := rfl
@[simp] theorem State.countDraw_disp : (s.countDraw).disp = s.disp := rfl
@[simp] theorem State.countDraw_mem : (s.countDraw).mem = s.mem := rfl
@[simp] theorem State.countDraw_halted : (s.countDraw).halted = s.halted := rfl
@[simp] theorem State.countDraw_faultCause : (s.countDraw).faultCause = s.faultCause := rfl
@[simp] theorem State.countDraw_faultPc : (s.countDraw).faultPc = s.faultPc := rfl
@[simp] theorem State.countDraw_faultWord : (s.countDraw).faultWord = s.faultWord := rfl
@[simp] theorem State.countDraw_tickPending : (s.countDraw).tickPending = s.tickPending := rfl
@[simp] theorem State.countDraw_tickLost : (s.countDraw).tickLost = s.tickLost := rfl
@[simp] theorem State.countDraw_tdiv : (s.countDraw).tdiv = s.tdiv := rfl
@[simp] theorem State.countDraw_channel : (s.countDraw).channel = s.channel := rfl
@[simp] theorem State.countDraw_diag : (s.countDraw).diag = s.diag := rfl
@[simp] theorem State.countDraw_rndDraws : (s.countDraw).rndDraws = s.rndDraws + 1 := rfl
@[simp] theorem State.countDraw_agenda : (s.countDraw).agenda = s.agenda := rfl
@[simp] theorem State.countDraw_getV (q : Reg) : (s.countDraw).getV q = s.getV q := rfl
@[simp] theorem State.countDraw_key (q : KeyId) : (s.countDraw).key q = s.key q := rfl
@[simp] theorem State.countDraw_readMem (q : Nat) : (s.countDraw).readMem q = s.readMem q := rfl

/-! ### raiseFatal -/

@[simp] theorem State.raiseFatal_v (c : FaultCause) (w : Word) : (s.raiseFatal c w).v = s.v := rfl
@[simp] theorem State.raiseFatal_i (c : FaultCause) (w : Word) : (s.raiseFatal c w).i = s.i := rfl
@[simp] theorem State.raiseFatal_pc (c : FaultCause) (w : Word) : (s.raiseFatal c w).pc = s.pc := rfl
@[simp] theorem State.raiseFatal_sp (c : FaultCause) (w : Word) : (s.raiseFatal c w).sp = s.sp := rfl
@[simp] theorem State.raiseFatal_stack (c : FaultCause) (w : Word) : (s.raiseFatal c w).stack = s.stack := rfl
@[simp] theorem State.raiseFatal_dt (c : FaultCause) (w : Word) : (s.raiseFatal c w).dt = s.dt := rfl
@[simp] theorem State.raiseFatal_st (c : FaultCause) (w : Word) : (s.raiseFatal c w).st = s.st := rfl
@[simp] theorem State.raiseFatal_keys (c : FaultCause) (w : Word) : (s.raiseFatal c w).keys = s.keys := rfl
@[simp] theorem State.raiseFatal_disp (c : FaultCause) (w : Word) : (s.raiseFatal c w).disp = s.disp := rfl
@[simp] theorem State.raiseFatal_mem (c : FaultCause) (w : Word) : (s.raiseFatal c w).mem = s.mem := rfl
@[simp] theorem State.raiseFatal_halted (c : FaultCause) (w : Word) : (s.raiseFatal c w).halted = true := rfl
@[simp] theorem State.raiseFatal_faultCause (c : FaultCause) (w : Word) : (s.raiseFatal c w).faultCause = c := rfl
@[simp] theorem State.raiseFatal_faultPc (c : FaultCause) (w : Word) : (s.raiseFatal c w).faultPc = s.pc := rfl
@[simp] theorem State.raiseFatal_faultWord (c : FaultCause) (w : Word) : (s.raiseFatal c w).faultWord = w := rfl
@[simp] theorem State.raiseFatal_tickPending (c : FaultCause) (w : Word) : (s.raiseFatal c w).tickPending = s.tickPending := rfl
@[simp] theorem State.raiseFatal_tickLost (c : FaultCause) (w : Word) : (s.raiseFatal c w).tickLost = s.tickLost := rfl
@[simp] theorem State.raiseFatal_tdiv (c : FaultCause) (w : Word) : (s.raiseFatal c w).tdiv = s.tdiv := rfl
@[simp] theorem State.raiseFatal_channel (c : FaultCause) (w : Word) : (s.raiseFatal c w).channel = s.channel := rfl
@[simp] theorem State.raiseFatal_diag (c : FaultCause) (w : Word) : (s.raiseFatal c w).diag = s.diag ++ [⟨.fatal c, s.pc, w⟩] := rfl
@[simp] theorem State.raiseFatal_rndDraws (c : FaultCause) (w : Word) : (s.raiseFatal c w).rndDraws = s.rndDraws := rfl
@[simp] theorem State.raiseFatal_agenda (c : FaultCause) (w : Word) : (s.raiseFatal c w).agenda = s.agenda := rfl
@[simp] theorem State.raiseFatal_getV (c : FaultCause) (w : Word) (q : Reg) : (s.raiseFatal c w).getV q = s.getV q := rfl
@[simp] theorem State.raiseFatal_key (c : FaultCause) (w : Word) (q : KeyId) : (s.raiseFatal c w).key q = s.key q := rfl
@[simp] theorem State.raiseFatal_readMem (c : FaultCause) (w : Word) (q : Nat) : (s.raiseFatal c w).readMem q = s.readMem q := rfl

/-! ### timerTick -/

@[simp] theorem State.timerTick_v (d : Nat) : (s.timerTick d).v = s.v := rfl
@[simp] theorem State.timerTick_i (d : Nat) : (s.timerTick d).i = s.i := rfl
@[simp] theorem State.timerTick_pc (d : Nat) : (s.timerTick d).pc = s.pc := rfl
@[simp] theorem State.timerTick_sp (d : Nat) : (s.timerTick d).sp = s.sp := rfl
@[simp] theorem State.timerTick_stack (d : Nat) : (s.timerTick d).stack = s.stack := rfl
@[simp] theorem State.timerTick_dt (d : Nat) : (s.timerTick d).dt = if s.timersDue d then countDown s.dt else s.dt := rfl
@[simp] theorem State.timerTick_st (d : Nat) : (s.timerTick d).st = if s.timersDue d then countDown s.st else s.st := rfl
@[simp] theorem State.timerTick_keys (d : Nat) : (s.timerTick d).keys = s.keys := rfl
@[simp] theorem State.timerTick_disp (d : Nat) : (s.timerTick d).disp = s.disp := rfl
@[simp] theorem State.timerTick_mem (d : Nat) : (s.timerTick d).mem = s.mem := rfl
@[simp] theorem State.timerTick_halted (d : Nat) : (s.timerTick d).halted = s.halted := rfl
@[simp] theorem State.timerTick_faultCause (d : Nat) : (s.timerTick d).faultCause = s.faultCause := rfl
@[simp] theorem State.timerTick_faultPc (d : Nat) : (s.timerTick d).faultPc = s.faultPc := rfl
@[simp] theorem State.timerTick_faultWord (d : Nat) : (s.timerTick d).faultWord = s.faultWord := rfl
@[simp] theorem State.timerTick_tickPending (d : Nat) : (s.timerTick d).tickPending = s.tickPending := rfl
@[simp] theorem State.timerTick_tickLost (d : Nat) : (s.timerTick d).tickLost = s.tickLost := rfl
@[simp] theorem State.timerTick_tdiv (d : Nat) : (s.timerTick d).tdiv = if s.timersDue d then 0 else s.tdiv + 1 := rfl
@[simp] theorem State.timerTick_channel (d : Nat) : (s.timerTick d).channel = s.channel := rfl
@[simp] theorem State.timerTick_diag (d : Nat) : (s.timerTick d).diag = s.diag := rfl
@[simp] theorem State.timerTick_rndDraws (d : Nat) : (s.timerTick d).rndDraws = s.rndDraws := rfl
@[simp] theorem State.timerTick_agenda (d : Nat) : (s.timerTick d).agenda = s.agenda := rfl
@[simp] theorem State.timerTick_getV (d : Nat) (q : Reg) : (s.timerTick d).getV q = s.getV q := rfl
@[simp] theorem State.timerTick_key (d : Nat) (q : KeyId) : (s.timerTick d).key q = s.key q := rfl
@[simp] theorem State.timerTick_readMem (d : Nat) (q : Nat) : (s.timerTick d).readMem q = s.readMem q := rfl

/-! ### tick -/

@[simp] theorem State.tick_v : (s.tick).v = s.v := rfl
@[simp] theorem State.tick_i : (s.tick).i = s.i := rfl
@[simp] theorem State.tick_pc : (s.tick).pc = s.pc := rfl
@[simp] theorem State.tick_sp : (s.tick).sp = s.sp := rfl
@[simp] theorem State.tick_stack : (s.tick).stack = s.stack := rfl
@[simp] theorem State.tick_dt : (s.tick).dt = s.dt := rfl
@[simp] theorem State.tick_st : (s.tick).st = s.st := rfl
@[simp] theorem State.tick_keys : (s.tick).keys = s.keys := rfl
@[simp] theorem State.tick_disp : (s.tick).disp = s.disp := rfl
@[simp] theorem State.tick_mem : (s.tick).mem = s.mem := rfl
@[simp] theorem State.tick_halted : (s.tick).halted = s.halted := rfl
@[simp] theorem State.tick_faultCause : (s.tick).faultCause = s.faultCause := rfl
@[simp] theorem State.tick_faultPc : (s.tick).faultPc = s.faultPc := rfl
@[simp] theorem State.tick_faultWord : (s.tick).faultWord = s.faultWord := rfl
@[simp] theorem State.tick_tickPending : (s.tick).tickPending = (s.tickPending || !s.tickLost) := rfl
@[simp] theorem State.tick_tickLost : (s.tick).tickLost = s.tickLost := rfl
@[simp] theorem State.tick_tdiv : (s.tick).tdiv = s.tdiv := rfl
@[simp] theorem State.tick_channel : (s.tick).channel = s.channel := rfl
@[simp] theorem State.tick_diag : (s.tick).diag = s.diag := rfl
@[simp] theorem State.tick_rndDraws : (s.tick).rndDraws = s.rndDraws := rfl
@[simp] theorem State.tick_agenda : (s.tick).agenda = s.agenda := rfl
@[simp] theorem State.tick_getV (q : Reg) : (s.tick).getV q = s.getV q := rfl
@[simp] theorem State.tick_key (q : KeyId) : (s.tick).key q = s.key q := rfl
@[simp] theorem State.tick_readMem (q : Nat) : (s.tick).readMem q = s.readMem q := rfl

/-! ### disconnect -/

@[simp] theorem State.disconnect_v : (s.disconnect).v = s.v := rfl
@[simp] theorem State.disconnect_i : (s.disconnect).i = s.i := rfl
@[simp] theorem State.disconnect_pc : (s.disconnect).pc = s.pc := rfl
@[simp] theorem State.disconnect_sp : (s.disconnect).sp = s.sp := rfl
@[simp] theorem State.disconnect_stack : (s.disconnect).stack = s.stack := rfl
@[simp] theorem State.disconnect_dt : (s.disconnect).dt = s.dt := rfl
@[simp] theorem State.disconnect_st : (s.disconnect).st = s.st := rfl
@[simp] theorem State.disconnect_keys : (s.disconnect).keys = s.keys := rfl
@[simp] theorem State.disconnect_disp : (s.disconnect).disp = s.disp := rfl
@[simp] theorem State.disconnect_mem : (s.disconnect).mem = s.mem := rfl
@[simp] theorem State.disconnect_halted : (s.disconnect).halted = s.halted := rfl
@[simp] theorem State.disconnect_faultCause : (s.disconnect).faultCause = s.faultCause := rfl
@[simp] theorem State.disconnect_faultPc : (s.disconnect).faultPc = s.faultPc := rfl
@[simp] theorem State.disconnect_faultWord : (s.disconnect).faultWord = s.faultWord := rfl
@[simp] theorem State.disconnect_tickPending : (s.disconnect).tickPending = s.tickPending := rfl
@[simp] theorem State.disconnect_tickLost : (s.disconnect).tickLost = true := rfl
@[simp] theorem State.disconnect_tdiv : (s.disconnect).tdiv = s.tdiv := rfl
@[simp] theorem State.disconnect_channel : (s.disconnect).channel = s.channel := rfl
@[simp] theorem State.disconnect_diag : (s.disconnect).diag = s.diag := rfl
@[simp] theorem State.disconnect_rndDraws : (s.disconnect).rndDraws = s.rndDraws := rfl
@[simp] theorem State.disconnect_agenda : (s.disconnect).agenda = s.agenda := rfl
@[simp] theorem State.disconnect_getV (q : Reg) : (s.disconnect).getV q = s.getV q := rfl
@[simp] theorem State.disconnect_key (q : KeyId) : (s.disconnect).key q = s.key q := rfl
@[simp] theorem State.disconnect_readMem (q : Nat) : (s.disconnect).readMem q = s.readMem q := rfl

/-! ### press -/

@[simp] theorem State.press_v (k : KeyId) : (s.press k).v = s.v := rfl
@[simp] theorem State.press_i (k : KeyId) : (s.press k).i = s.i := rfl
@[simp] theorem State.press_pc (k : KeyId) : (s.press k).pc = s.pc := rfl
@[simp] theorem State.press_sp (k : KeyId) : (s.press k).sp = s.sp := rfl
@[simp] theorem State.press_stack (k : KeyId) : (s.press k).stack = s.stack := rfl
@[simp] theorem State.press_dt (k : KeyId) : (s.press k).dt = s.dt := rfl
@[simp] theorem State.press_st (k : KeyId) : (s.press k).st = s.st := rfl
@[simp] theorem State.press_disp (k : KeyId) : (s.press k).disp = s.disp := rfl
@[simp] theorem State.press_mem (k : KeyId) : (s.press k).mem = s.mem := rfl
@[simp] theorem State.press_halted (k : KeyId) : (s.press k).halted = s.halted := rfl
@[simp] theorem State.press_faultCause (k : KeyId) : (s.press k).faultCause = s.faultCause := rfl
@[simp] theorem State.press_faultPc (k : KeyId) : (s.press k).faultPc = s.faultPc := rfl
@[simp] theorem State.press_faultWord (k : KeyId) : (s.press k).faultWord = s.faultWord := rfl
@[simp] theorem State.press_tickPending (k : KeyId) : (s.press k).tickPending = s.tickPending := rfl
@[simp] theorem State.press_tickLost (k : KeyId) : (s.press k).tickLost = s.tickLost := rfl
@[simp] theorem State.press_tdiv (k : KeyId) : (s.press k).tdiv = s.tdiv := rfl
@[simp] theorem State.press_channel (k : KeyId) : (s.press k).channel = s.channel := rfl
@[simp] theorem State.press_diag (k : KeyId) : (s.press k).diag = s.diag := rfl
@[simp] theorem State.press_rndDraws (k : KeyId) : (s.press k).rndDraws = s.rndDraws := rfl
@[simp] theorem State.press_agenda (k : KeyId) : (s.press k).agenda = s.agenda := rfl
@[simp] theorem State.press_getV (k : KeyId) (q : Reg) : (s.press k).getV q = s.getV q := rfl
@[simp] theorem State.press_readMem (k : KeyId) (q : Nat) : (s.press k).readMem q = s.readMem q := rfl

/-! ### drain -/

@[simp] theorem State.drain_v : (s.drain).v = s.v := rfl
@[simp] theorem State.drain_i : (s.drain).i = s.i := rfl
@[simp] theorem State.drain_pc : (s.drain).pc = s.pc := rfl
@[simp] theorem State.drain_sp : (s.drain).sp = s.sp := rfl
@[simp] theorem State.drain_stack : (s.drain).stack = s.stack := rfl
@[simp] theorem State.drain_dt : (s.drain).dt = s.dt := rfl
@[simp] theorem State.drain_st : (s.drain).st = s.st := rfl
@[simp] theorem State.drain_keys : (s.drain).keys = s.keys := rfl
@[simp] theorem State.drain_disp : (s.drain).disp = s.disp := rfl
@[simp] theorem State.drain_mem : (s.drain).mem = s.mem := rfl
@[simp] theorem State.drain_halted : (s.drain).halted = s.halted := rfl
@[simp] theorem State.drain_faultCause : (s.drain).faultCause = s.faultCause := rfl
@[simp] theorem State.drain_faultPc : (s.drain).faultPc = s.faultPc := rfl
@[simp] theorem State.drain_faultWord : (s.drain).faultWord = s.faultWord := rfl
@[simp] theorem State.drain_tickPending : (s.drain).tickPending = s.tickPending := rfl
@[simp] theorem State.drain_tickLost : (s.drain).tickLost = s.tickLost := rfl
@[simp] theorem State.drain_tdiv : (s.drain).tdiv = s.tdiv := rfl
@[simp] theorem State.drain_channel : (s.drain).channel = s.channel.tail := rfl
@[simp] theorem State.drain_diag : (s.drain).diag = s.diag := rfl
@[simp] theorem State.drain_rndDraws : (s.drain).rndDraws = s.rndDraws := rfl
@[simp] theorem State.drain_agenda : (s.drain).agenda = s.agenda := rfl
@[simp] theorem State.drain_getV (q : Reg) : (s.drain).getV q = s.getV q := rfl
@[simp] theorem State.drain_key (q : KeyId) : (s.drain).key q = s.key q := rfl
@[simp] theorem State.drain_readMem (q : Nat) : (s.drain).readMem q = s.readMem q := rfl

end Sys2Proof.Machine
end

