-- ==== Sys2Proof/Laws/Memory.lean ====
section
/-!
SUPPORT. The laws of memory: a read after a write, and that every memory operation keeps the canonical form.
-/

namespace Sys2Proof.Machine

theorem Memory.read_eraseCell (m : Memory) (a c : Nat) :
    Memory.read (Memory.eraseCell m a) c = if c = a then bootByte c else Memory.read m c := by
  induction m with
  | nil => simp [Memory.eraseCell, Memory.read]
  | cons hd tl ih =>
    obtain ⟨k, b⟩ := hd
    simp only [Memory.eraseCell] at ih
    by_cases hk : k = a
    · subst hk
      simp only [Memory.eraseCell, List.filter_cons, bne_self_eq_false, Bool.false_eq_true, if_false, ih, Memory.read]
      split <;> rfl
    · have hk' : (k != a) = true := by simpa using hk
      simp only [Memory.eraseCell, List.filter_cons, hk', if_true, Memory.read, ih]
      split_ifs with h1 h2 <;> simp_all

theorem Memory.read_insertCell (m : Memory) (a : Nat) (b : Byte) (c : Nat) (h : ∀ e ∈ m, e.1 ≠ a) :
    Memory.read (Memory.insertCell m a b) c = if c = a then b else Memory.read m c := by
  induction m with
  | nil => simp [Memory.insertCell, Memory.read]
  | cons hd tl ih =>
    obtain ⟨k, d⟩ := hd
    have hk : k ≠ a := h (k, d) (by simp)
    have ht := ih fun e he => h e (by simp [he])
    simp only [Memory.insertCell]
    by_cases hlt : a < k
    · simp [hlt, Memory.read]
    · simp only [hlt, if_false, Memory.read, ht]
      split_ifs <;> simp_all

theorem Memory.eraseCell_ne (m : Memory) (a : Nat) : ∀ e ∈ Memory.eraseCell m a, e.1 ≠ a := by
  simp [Memory.eraseCell]

/-- A read after a write of an address of the array: the value written there, everything else as before. -/
theorem Memory.read_put (m : Memory) (a : Nat) (b : Byte) (c : Nat) :
    Memory.read (Memory.put m a b) c = if c = a then b else Memory.read m c := by
  unfold Memory.put
  by_cases hb : b = bootByte a
  · rw [if_pos hb, Memory.read_eraseCell]
    split_ifs with hc
    · rw [hb, hc]
    · rfl
  · rw [if_neg hb, Memory.read_insertCell _ _ _ _ (Memory.eraseCell_ne m a), Memory.read_eraseCell]
    split_ifs <;> rfl

theorem Memory.read_write (m : Memory) (a : Nat) (b : Byte) (c : Nat) (h : a ≤ memTop) :
    Memory.read (Memory.write m a b) c = if c = a then b else Memory.read m c := by
  rw [Memory.write, if_pos h, Memory.read_put]

/-- Reading after a store of several bytes: inside the stored bytes the byte stored there, outside them as before. -/
theorem Memory.read_writeList (bs : List Byte) (m : Memory) (a c : Nat) (h : a + bs.length ≤ memTop + 1) :
    Memory.read (Memory.writeList m a bs) c =
      if a ≤ c ∧ c < a + bs.length then bs.getD (c - a) 0 else Memory.read m c := by
  induction bs generalizing m a with
  | nil => rw [if_neg (by simp)]; rfl
  | cons b bs ih =>
    simp only [List.length_cons] at h
    rw [Memory.writeList, ih _ _ (by omega), Memory.read_write _ _ _ _ (by omega)]
    simp only [List.length_cons]
    by_cases hc : c = a
    · subst hc
      rw [if_neg (by omega), if_pos rfl, if_pos (by omega)]
      simp
    · rw [if_neg hc]
      by_cases hr : a + 1 ≤ c ∧ c < a + 1 + bs.length
      · rw [if_pos hr, if_pos (by omega), show c - a = (c - (a + 1)) + 1 by omega, List.getD_cons_succ]
      · rw [if_neg hr, if_neg (by omega)]

/-! ### The canonical form -/

theorem Memory.wfFrom_mono {lo lo' : Nat} (m : Memory) (hle : lo ≤ lo') (h : Memory.wfFrom lo' m = true) :
    Memory.wfFrom lo m = true := by
  cases m with
  | nil => rfl
  | cons hd tl =>
    simp only [Memory.wfFrom, Bool.and_eq_true, decide_eq_true_eq] at h ⊢
    exact ⟨⟨⟨by omega, h.1.1.2⟩, h.1.2⟩, h.2⟩

theorem Memory.wfFrom_eraseCell (m : Memory) (lo a : Nat) (h : Memory.wfFrom lo m = true) :
    Memory.wfFrom lo (Memory.eraseCell m a) = true := by
  induction m generalizing lo with
  | nil => rfl
  | cons hd tl ih =>
    obtain ⟨k, b⟩ := hd
    simp only [Memory.wfFrom, Bool.and_eq_true, decide_eq_true_eq] at h
    have ht := ih (k + 1) h.2
    by_cases hk : k = a
    · have : Memory.eraseCell ((k, b) :: tl) a = Memory.eraseCell tl a := by simp [Memory.eraseCell, hk]
      rw [this]
      exact Memory.wfFrom_mono _ (by omega) ht
    · have : Memory.eraseCell ((k, b) :: tl) a = (k, b) :: Memory.eraseCell tl a := by simp [Memory.eraseCell, hk]
      rw [this]
      simp only [Memory.wfFrom, Bool.and_eq_true, decide_eq_true_eq]
      exact ⟨h.1, ht⟩

theorem Memory.wfFrom_insertCell (m : Memory) (lo a : Nat) (b : Byte) (hlo : lo ≤ a) (ha : a ≤ memTop)
    (hb : b ≠ bootByte a) (hne : ∀ e ∈ m, e.1 ≠ a) (h : Memory.wfFrom lo m = true) :
    Memory.wfFrom lo (Memory.insertCell m a b) = true := by
  induction m generalizing lo with
  | nil => simp [Memory.insertCell, Memory.wfFrom, hlo, ha, hb]
  | cons hd tl ih =>
    obtain ⟨k, d⟩ := hd
    simp only [Memory.wfFrom, Bool.and_eq_true, decide_eq_true_eq] at h
    have hk : k ≠ a := hne (k, d) (by simp)
    simp only [Memory.insertCell]
    split_ifs with hlt
    · simp only [Memory.wfFrom, Bool.and_eq_true, decide_eq_true_eq]
      exact ⟨⟨⟨hlo, ha⟩, hb⟩, ⟨⟨by omega, h.1.1.2⟩, h.1.2⟩, h.2⟩
    · simp only [Memory.wfFrom, Bool.and_eq_true, decide_eq_true_eq]
      exact ⟨h.1, ih (k + 1) (by omega) (fun e he => hne e (by simp [he])) h.2⟩

/-- A write keeps the canonical form. -/
theorem Memory.wf_write (m : Memory) (a : Nat) (b : Byte) (h : Memory.wf m = true) :
    Memory.wf (Memory.write m a b) = true := by
  unfold Memory.wf Memory.write Memory.put at *
  split_ifs with ha hb
  · exact Memory.wfFrom_eraseCell _ _ _ h
  · exact Memory.wfFrom_insertCell _ _ _ _ (by omega) ha hb (Memory.eraseCell_ne m a)
      (Memory.wfFrom_eraseCell _ _ _ h)
  · exact h

/-- A store of several bytes keeps the canonical form. -/
theorem Memory.wf_writeList (bs : List Byte) (m : Memory) (a : Nat) (h : Memory.wf m = true) :
    Memory.wf (Memory.writeList m a bs) = true := by
  induction bs generalizing m a with
  | nil => exact h
  | cons b bs ih => exact ih _ _ (Memory.wf_write _ _ _ h)

theorem State.reset_mem_wf : Memory.wf State.reset.mem = true := rfl

/-- Equal reads make equal memories: the canonical form leaves one list for each content. -/
theorem Memory.read_below (m : Memory) (lo a : Nat) (h : Memory.wfFrom lo m = true) (ha : a < lo) :
    Memory.read m a = bootByte a := by
  induction m generalizing lo with
  | nil => rfl
  | cons hd tl ih =>
    obtain ⟨k, b⟩ := hd
    simp only [Memory.wfFrom, Bool.and_eq_true, decide_eq_true_eq] at h
    rw [Memory.read, if_neg (by omega)]
    exact ih (k + 1) h.2 (by omega)

theorem Memory.ext_of_read (m m' : Memory) (lo lo' : Nat) (h : Memory.wfFrom lo m = true)
    (h' : Memory.wfFrom lo' m' = true) (he : ∀ a, Memory.read m a = Memory.read m' a) : m = m' := by
  induction m generalizing m' lo lo' with
  | nil =>
    cases m' with
    | nil => rfl
    | cons hd tl =>
      obtain ⟨k, b⟩ := hd
      simp only [Memory.wfFrom, Bool.and_eq_true, decide_eq_true_eq] at h'
      have := he k
      simp only [Memory.read, if_true] at this
      exact absurd this.symm h'.1.2
  | cons hd tl ih =>
    obtain ⟨k, b⟩ := hd
    simp only [Memory.wfFrom, Bool.and_eq_true, decide_eq_true_eq] at h
    cases m' with
    | nil =>
      have := he k
      simp only [Memory.read, if_true] at this
      exact absurd this h.1.2
    | cons hd' tl' =>
      obtain ⟨k', b'⟩ := hd'
      simp only [Memory.wfFrom, Bool.and_eq_true, decide_eq_true_eq] at h'
      have hkk : k = k' := by
        rcases Nat.lt_trichotomy k k' with hlt | heq | hgt
        · have := he k
          simp only [Memory.read, if_true, if_neg (show ¬ k = k' by omega),
            Memory.read_below tl' (k' + 1) k h'.2 (by omega)] at this
          exact absurd this h.1.2
        · exact heq
        · have := he k'
          simp only [Memory.read, if_true, if_neg (show ¬ k' = k by omega),
            Memory.read_below tl (k + 1) k' h.2 (by omega)] at this
          exact absurd this.symm h'.1.2
      subst hkk
      have hb : b = b' := by
        have := he k
        simpa [Memory.read] using this
      subst hb
      have : tl = tl' := by
        refine ih tl' (k + 1) (k + 1) h.2 h'.2 fun a => ?_
        by_cases ha : a = k
        · subst ha
          rw [Memory.read_below tl _ a h.2 (by omega), Memory.read_below tl' _ a h'.2 (by omega)]
        · have := he a
          simpa [Memory.read, ha] using this
      rw [this]

/-! ### The machine's memory -/

theorem State.storeBytes_readMem (s : State) (a : Nat) (bs : List Byte) (c : Nat) (h : a + bs.length ≤ memTop + 1) :
    (s.storeBytes a bs).readMem c = if a ≤ c ∧ c < a + bs.length then bs.getD (c - a) 0 else s.readMem c :=
  Memory.read_writeList bs s.mem a c h

/-- Outside the stored bytes memory reads as before, wherever the store goes. -/
theorem State.storeBytes_readMem_outside (s : State) (a : Nat) (bs : List Byte) (c : Nat)
    (h : c < a ∨ a + bs.length ≤ c) : (s.storeBytes a bs).readMem c = s.readMem c := by
  suffices ∀ (bs : List Byte) (m : Memory) (a : Nat), (c < a ∨ a + bs.length ≤ c) →
      Memory.read (Memory.writeList m a bs) c = Memory.read m c from this bs s.mem a h
  clear h bs a
  intro bs
  induction bs with
  | nil => intros; rfl
  | cons b bs ih =>
    intro m a h
    simp only [List.length_cons] at h
    rw [Memory.writeList, ih _ _ (by omega), Memory.write]
    split_ifs
    · rw [Memory.read_put, if_neg (by omega)]
    · rfl

end Sys2Proof.Machine
end

