-- ==== Sys2Proof/Laws/Ops.lean ====
section
/-!
SUPPORT. What each shared operation over registers, stack, keys and operands does: one lemma to cite instead of unfolding it.
-/

namespace Sys2Proof.Machine

/-! ### Registers -/

theorem State.getV_setV (s : State) (r q : Reg) (b : Byte) :
    (s.setV r b).getV q = if q = r then b else s.getV q := by
  unfold State.getV State.setV
  rw [Vector.getElem_set]
  by_cases h : q = r
  · subst h; simp
  · rw [if_neg h, if_neg (fun e => h (BitVec.eq_of_toNat_eq e.symm))]

@[simp] theorem State.getV_setV_self (s : State) (r : Reg) (b : Byte) : (s.setV r b).getV r = b := by
  rw [State.getV_setV, if_pos rfl]

theorem State.getV_setV_ne (s : State) (r q : Reg) (b : Byte) (h : q ≠ r) : (s.setV r b).getV q = s.getV q := by
  rw [State.getV_setV, if_neg h]

/-- The flag stands in `VF`, the result in its register unless that is `VF` (R120). -/
theorem State.getV_setVWithFlag (s : State) (r q : Reg) (b c : Byte) :
    (s.setVWithFlag r b c).getV q = if q = vf then c else if q = r then b else s.getV q := by
  rw [State.setVWithFlag, State.getV_setV, State.getV_setV]

@[simp] theorem State.setVWithFlag_vf (s : State) (r : Reg) (b c : Byte) : (s.setVWithFlag r b c).getV vf = c := by
  rw [State.getV_setVWithFlag, if_pos rfl]

/-- Registers that agree at every number are one register file. -/
theorem State.v_ext (s t : State) (h : ∀ q, s.getV q = t.getV q) : s.v = t.v := by
  refine Vector.ext fun k hk => ?_
  have := h (BitVec.ofNat 4 k)
  simpa [State.getV, Nat.mod_eq_of_lt hk] using this

/-! ### Key counters -/

theorem State.key_setKey (s : State) (k q : KeyId) (n : Nat) :
    (s.setKey k n).key q = if q = k then n else s.key q := by
  unfold State.key State.setKey
  rw [Vector.getElem_set]
  by_cases h : q = k
  · subst h; simp
  · rw [if_neg h, if_neg (fun e => h (BitVec.eq_of_toNat_eq e.symm))]

/-- Using up a press lowers one counter by 1 and no other. -/
theorem State.key_consumeKey (s : State) (k q : KeyId) :
    (s.consumeKey k).key q = if q = k then s.key k - 1 else s.key q := State.key_setKey s k q _

theorem State.key_press (s : State) (k q : KeyId) :
    (s.press k).key q = if q = k then s.key k + 1 else s.key q := State.key_setKey s k q _

/-- The key found is pressed and no lower one is. -/
theorem State.firstPressed_some (s : State) (k : KeyId) :
    s.firstPressed = some k ↔ 0 < s.key k ∧ ∀ j : KeyId, j < k → s.key j = 0 := by
  have hlist : ((List.range 16).map (BitVec.ofNat 4)).Pairwise (· < ·) := by decide
  have hmem : ∀ j : KeyId, j ∈ (List.range 16).map (BitVec.ofNat 4) := by decide
  unfold State.firstPressed
  generalize (List.range 16).map (BitVec.ofNat 4) = l at hlist hmem
  rw [List.find?_eq_some_iff_append]
  constructor
  · rintro ⟨hk, as, bs, rfl, has⟩
    refine ⟨by simpa using hk, fun j hj => ?_⟩
    have hj' := hmem j
    rw [List.pairwise_append] at hlist
    rcases List.mem_append.1 hj' with h | h
    · simpa using has j h
    · rcases List.mem_cons.1 h with rfl | h
      · exact absurd hj (BitVec.lt_irrefl _)
      · have := (List.pairwise_cons.1 hlist.2.1).1 j h
        exact absurd hj (BitVec.not_lt.2 (BitVec.le_of_lt this))
  · rintro ⟨hk, hlow⟩
    obtain ⟨as, bs, rfl⟩ := List.append_of_mem (hmem k)
    refine ⟨by simpa using hk, as, bs, rfl, fun a ha => ?_⟩
    have := (List.pairwise_append.1 hlist).2.2 a ha k (by simp)
    simp [hlow a this]

theorem State.firstPressed_none (s : State) : s.firstPressed = none ↔ ∀ k : KeyId, s.key k = 0 := by
  have hmem : ∀ j : KeyId, j ∈ (List.range 16).map (BitVec.ofNat 4) := by decide
  unfold State.firstPressed
  rw [List.find?_eq_none]
  exact ⟨fun h k => by simpa using h k (hmem k), fun h k _ => by simp [h k]⟩

/-- A register names a key exactly when its content is at most 0xF. -/
theorem State.keyOperand_none (s : State) (x : Reg) : s.keyOperand x = none ↔ 0xF < (s.getV x).toNat := by
  unfold State.keyOperand
  split <;> simp_all

theorem State.keyOperand_some (s : State) (x : Reg) (k : KeyId) :
    s.keyOperand x = some k ↔ (s.getV x).toNat = k.toNat := by
  unfold State.keyOperand
  have hk := k.isLt
  split
  · constructor
    · intro h; cases h
    · intro h; omega
  · rename_i hle
    constructor
    · intro h
      have := congrArg BitVec.toNat (Option.some.inj h)
      simp only [BitVec.toNat_setWidth] at this
      omega
    · intro h
      refine congrArg some (BitVec.eq_of_toNat_eq ?_)
      simp only [BitVec.toNat_setWidth]
      omega

/-! ### The call stack -/

theorem State.push_of_lt (s : State) (a : Word) (h : s.sp.val < 16) :
    (s.push a).sp.val = s.sp.val + 1 ∧
      ∀ (k : Nat) (hk : k < 16), (s.push a).stack[k] = if k = s.sp.val then a else s.stack[k] := by
  unfold State.push
  rw [dif_pos h]
  refine ⟨rfl, fun k hk => ?_⟩
  rw [Vector.getElem_set]
  simp [eq_comm]

theorem State.topOfStack_eq_none (s : State) : s.topOfStack = none ↔ s.sp.val = 0 := by
  unfold State.topOfStack
  split <;> simp <;> omega

theorem State.topOfStack_of_pos (s : State) (h : 0 < s.sp.val) :
    s.topOfStack = some (s.stack[s.sp.val - 1]'(by have := s.sp.isLt; omega)) := dif_pos h

@[simp] theorem State.dropTop_sp (s : State) : s.dropTop.sp.val = s.sp.val - 1 := rfl

/-! ### Transfers through `I` -/

/-- The range check of R55. -/
theorem State.transferFaults_iff (s : State) (n : Nat) :
    s.transferFaults n = true ↔ 1 ≤ n ∧ 0xFFF < s.i.toNat + n - 1 := by
  rw [State.transferFaults, Bool.and_eq_true, decide_eq_true_eq, decide_eq_true_eq]
  rfl

/-- An admitted transfer lies inside memory. -/
theorem State.range_of_not_faults (s : State) (n : Nat) (h : s.transferFaults n = false) (hn : 1 ≤ n) :
    s.i.toNat + n ≤ memTop + 1 := by
  have : ¬ (1 ≤ n ∧ 0xFFF < s.i.toNat + n - 1) := by rw [← State.transferFaults_iff]; simp [h]
  unfold memTop; omega

@[simp] theorem State.regBlock_length (s : State) (n : Nat) : (s.regBlock n).length = n := by simp [State.regBlock]

theorem State.regBlock_getD (s : State) (n k : Nat) (h : k < n) :
    (s.regBlock n).getD k 0 = s.getV (BitVec.ofNat 4 k) := by
  simp [State.regBlock, h]

@[simp] theorem bcdDigits_length (b : Byte) : (bcdDigits b).length = 3 := rfl

/-- `Load` changes registers only. -/
theorem State.loadBlock_frame (s : State) (n : Nat) : s.loadBlock n = { s with v := (s.loadBlock n).v } := by
  unfold State.loadBlock
  generalize hl : List.range n = l
  clear hl
  suffices ∀ (l : List Nat) (t : State), t = { s with v := t.v } →
      l.foldl (fun t k => t.setV (BitVec.ofNat 4 k) (s.readMem (s.dataAddr k))) t =
        { s with v := (l.foldl (fun t k => t.setV (BitVec.ofNat 4 k) (s.readMem (s.dataAddr k))) t).v } from
    this l s rfl
  intro l
  induction l with
  | nil => intro t ht; exact ht
  | cons k l ih =>
    intro t ht
    refine ih _ ?_
    conv_lhs => rw [ht]
    rfl

/-- After `Load` of `n` bytes, `V[q]` is the byte at `I + q` for `q < n`, and as before above. -/
theorem State.loadBlock_getV (s : State) (n : Nat) (hn : n ≤ 16) (q : Reg) :
    (s.loadBlock n).getV q = if q.toNat < n then s.readMem (s.i.toNat + q.toNat) else s.getV q := by
  induction n with
  | zero => simp [State.loadBlock]
  | succ n ih =>
    have hstep : s.loadBlock (n + 1) = (s.loadBlock n).setV (BitVec.ofNat 4 n) (s.readMem (s.dataAddr n)) := by
      simp [State.loadBlock, List.range_succ]
    rw [hstep, State.getV_setV, ih (by omega)]
    by_cases hq : q = BitVec.ofNat 4 n
    · subst hq
      have : (BitVec.ofNat 4 n).toNat = n := by simp; omega
      rw [if_pos rfl, this, if_pos (by omega)]
      rfl
    · have hne : q.toNat ≠ n := fun e => hq (BitVec.eq_of_toNat_eq (by simp [← e]))
      rw [if_neg hq]
      by_cases h1 : q.toNat < n
      · rw [if_pos h1, if_pos (by omega)]
      · rw [if_neg h1, if_neg (by omega)]

/-- `I` after an admitted transfer: no wrap. -/
theorem State.indexAfter_toNat (s : State) (n : Nat) (h : s.i.toNat + n ≤ memTop + 1) :
    (s.indexAfter n).toNat = s.i.toNat + n := by
  unfold State.indexAfter memTop at *
  simp; omega

/-! ### Arithmetic -/

theorem sum8_toNat (a b : Byte) : (sum8 a b).toNat = (a.toNat + b.toNat) % 256 := by simp [sum8]

theorem diff8_toNat (a b : Byte) : (diff8 a b).toNat = (a.toNat + 256 - b.toNat) % 256 := by simp [diff8]

theorem diff8_eq_sub (a b : Byte) : diff8 a b = a - b := by
  refine BitVec.eq_of_toNat_eq ?_
  have := a.isLt; have := b.isLt
  rw [diff8_toNat, BitVec.toNat_sub]
  omega

theorem sum8_eq_add (a b : Byte) : sum8 a b = a + b := BitVec.eq_of_toNat_eq (by simp [sum8])

@[simp] theorem zext12_toNat (n : Addr12) : (zext12 n).toNat = n.toNat := by
  have := n.isLt
  simp [zext12]; omega

@[simp] theorem zext8_toNat (b : Byte) : (zext8 b).toNat = b.toNat := by
  have := b.isLt
  simp [zext8]; omega

/-! ### The timers -/

theorem countDown_toNat (t : Byte) : (countDown t).toNat = t.toNat - 1 := by
  have := t.isLt
  unfold countDown
  split
  · simp_all
  · rename_i h
    have : t.toNat ≠ 0 := fun e => h (BitVec.eq_of_toNat_eq (by simpa using e))
    rw [BitVec.toNat_sub]
    simp; omega

theorem State.timersDue_iff (s : State) (d : Nat) : s.timersDue d = true ↔ s.tdiv + 1 = d := by simp [State.timersDue]

end Sys2Proof.Machine
end

