-- ==== Sys2Proof/Laws/Cycle.lean ====
section
/-!
SUPPORT. Whose turn it is, and what a poll and a cycle do, case by case (60_exceptions.md R210, R217): the lemmas from which
claims about `step` are derived.
-/

namespace Sys2Proof.Machine

theorem State.turn_nil (s : State) (h : s.agenda = []) : s.turn = (s.idleTurn, s) := by
  unfold State.turn; rw [h]

theorem State.turn_cons (s : State) (a : AgentStep) (rest : List AgentStep) (h : s.agenda = a :: rest) :
    s.turn = (a, { s with agenda := rest }) := by
  unfold State.turn; rw [h]

theorem step_cons (s : State) (a : AgentStep) (rest : List AgentStep) (h : s.agenda = a :: rest) :
    step s = agentStep a { s with agenda := rest } := by
  unfold step; rw [State.turn_cons s a rest h]

theorem step_nil (s : State) (h : s.agenda = []) : step s = agentStep s.idleTurn s := by
  unfold step; rw [State.turn_nil s h]

/-- On the CORE's turn the step is a poll. -/
theorem step_of_coreTurn (s : State) (rest : List AgentStep) (h : s.CoreTurn rest) :
    step s = poll { s with agenda := rest } := by
  rcases h with h | ⟨h, rfl, ht⟩
  · rw [step_cons s _ _ h]; rfl
  · have hidle : s.idleTurn = .poll := by
      unfold State.idleTurn
      rw [if_pos (by simpa using ht)]
    have hs : s = { s with agenda := [] } := by rw [← h]
    rw [step_nil s h, hidle, ← hs]
    rfl

/-- On the Timing Source's turn the step is a tick. -/
theorem step_of_tickTurn (s : State) (rest : List AgentStep) (h : s.TickTurn rest) :
    step s = .next (State.tick { s with agenda := rest }) := by
  rcases h with h | ⟨h, rfl, hp, hl⟩
  · rw [step_cons s _ _ h]; rfl
  · have hidle : s.idleTurn = .tick := by
      unfold State.idleTurn
      rw [if_neg (by simp [hp, hl])]
    have hs : s = { s with agenda := [] } := by rw [← h]
    rw [step_nil s h, hidle, ← hs]
    rfl

theorem poll_halted (s : State) (h : s.halted = true) : poll s = .next s := by simp [poll, h]

theorem poll_pending (s : State) (h : s.halted = false) (ht : s.tickPending = true) :
    poll s = cycle { s with tickPending := false } := by simp [poll, h, ht]

theorem poll_lost (s : State) (h : s.halted = false) (ht : s.tickPending = false) (hl : s.tickLost = true) :
    poll s = .next (s.raiseFatal .timingLost 0x0000) := by simp [poll, h, ht, hl]

theorem poll_idle (s : State) (h : s.halted = false) (ht : s.tickPending = false) (hl : s.tickLost = false) :
    poll s = .next s := by simp [poll, h, ht, hl]

/-- On a cycle's turn the step is that cycle. -/
theorem step_of_cycleTurn (s : State) (rest : List AgentStep) (h : s.CycleTurn rest) :
    step s = cycle (s.atCycle rest) := by
  obtain ⟨hc, hh, ht⟩ := h
  rw [step_of_coreTurn s rest hc]
  exact poll_pending { s with agenda := rest } hh ht

@[simp] theorem State.atCycle_fetchedWord (s : State) (rest : List AgentStep) :
    (s.atCycle rest).fetchedWord = s.fetchedWord := rfl

theorem cycle_fetch_fault (s : State) (h : 0xFFE < s.pc.toNat) :
    cycle s = .next (s.raiseFatal .fetchOutOfRange 0x0000) := if_pos h

theorem cycle_unrecognised (s : State) (h : s.pc.toNat ≤ 0xFFE) (hd : decode s.fetchedWord = none) :
    cycle s = .next (endCycle (s.skipUnrecognised s.fetchedWord)) := by
  unfold cycle; rw [if_neg (by omega), hd]

theorem cycle_exec (s : State) (i : Instr) (h : s.pc.toNat ≤ 0xFFE) (hd : decode s.fetchedWord = some i) :
    cycle s = afterExec (exec i s) := by
  unfold cycle; rw [if_neg (by omega), hd]

theorem endCycle_running (t : State) (h : t.halted = false) :
    endCycle t = t.timerTick Sys2Proof.Config.timerDiv := by simp [endCycle, h]

theorem endCycle_halted (t : State) (h : t.halted = true) : endCycle t = t := by simp [endCycle, h]

/-- The bytes at `pc` decode to what the fetched word decodes to. -/
theorem decodeBytes_bytesAtPc (s : State) :
    decodeBytes s.bytesAtPc =
      match decode s.fetchedWord with
      | some i => .ok (i, [])
      | none => .error (.unrecognised s.fetchedWord) := by
  cases h : decode s.fetchedWord <;> rw [State.fetchedWord] at h <;>
    simp only [State.bytesAtPc, State.fetchedWord, decodeBytes, h]

/-! The other agents' steps, each one operation. -/
theorem agentStep_tick (s : State) : agentStep .tick s = .next s.tick := rfl

theorem agentStep_disconnect (s : State) : agentStep .disconnect s = .next s.disconnect := rfl

theorem agentStep_press (s : State) (k : KeyId) : agentStep (.press k) s = .next (s.press k) := rfl

theorem agentStep_drain (s : State) : agentStep .drain s = .next s.drain := rfl

end Sys2Proof.Machine
end

