-- ==== Sys2Proof/Laws/Display.lean ====
section
/-!
SUPPORT. Pixels and sprites: a pixel read after a pixel write, which pixels a sprite touches, that it touches none twice
(43_display.md R163), and what toggling a list of distinct pixels gives.
-/

namespace Sys2Proof.Machine

theorem Display.pixel_setPixel (d : Display) (x x' : Fin 64) (y y' : Fin 32) (b : Bool) :
    Display.pixel (Display.setPixel d x y b) x' y' = if (x', y') = (x, y) then b else Display.pixel d x' y' := by
  unfold Display.pixel Display.setPixel
  rw [Vector.getElem_set]
  by_cases hy : y' = y
  · subst hy
    simp only [if_true]
    rw [Vector.getElem_set]
    by_cases hx : x' = x
    · subst hx; simp
    · have : x.val ≠ x'.val := fun e => hx (Fin.ext e.symm)
      simp [this, hx]
  · have : y.val ≠ y'.val := fun e => hy (Fin.ext e.symm)
    simp [this, hy]

/-- Displays with the same pixels are equal. -/
theorem Display.ext_pixel (d d' : Display) (h : ∀ x y, Display.pixel d x y = Display.pixel d' x y) : d = d' :=
  Vector.ext fun y hy => Vector.ext fun x hx => h ⟨x, hx⟩ ⟨y, hy⟩

@[simp] theorem Display.pixel_blank (x : Fin 64) (y : Fin 32) : Display.pixel Display.blank x y = false := by
  simp [Display.pixel, Display.blank]

/-! ### Sprites -/

/-- A pixel is under a 1 bit of a sprite row iff it is where that bit's column lands. -/
theorem mem_rowPixels (vx vy : Byte) (row : Nat) (bits : Byte) (p : Fin 64 × Fin 32) :
    p ∈ rowPixels vx vy row bits ↔ ∃ col, col < 8 ∧ bits.getLsbD (7 - col) = true ∧
      p = (Fin.ofNat 64 (vx.toNat + col), Fin.ofNat 32 (vy.toNat + row)) := by
  simp only [rowPixels, List.mem_map, List.mem_filter, List.mem_range]
  exact ⟨fun ⟨c, ⟨h1, h2⟩, h3⟩ => ⟨c, h1, h2, h3.symm⟩, fun ⟨c, h1, h2, h3⟩ => ⟨c, ⟨h1, h2⟩, h3.symm⟩⟩

theorem State.mem_spritePixels (s : State) (vx vy : Byte) (n : Nat) (p : Fin 64 × Fin 32) :
    p ∈ s.spritePixels vx vy n ↔ ∃ row, row < n ∧ ∃ col, col < 8 ∧
      (s.readMem (s.i.toNat + row)).getLsbD (7 - col) = true ∧
      p = (Fin.ofNat 64 (vx.toNat + col), Fin.ofNat 32 (vy.toNat + row)) := by
  simp only [State.spritePixels, List.mem_flatMap, List.mem_range, mem_rowPixels, State.dataAddr]

/-- The pixels a claim names by `SpriteHits` are those `Draw` toggles. -/
theorem State.spriteHits_iff (s : State) (vx vy : Byte) (n : Nat) (px : Fin 64) (py : Fin 32) :
    s.SpriteHits vx vy n px py ↔ (px, py) ∈ s.spritePixels vx vy n := by
  rw [State.mem_spritePixels]
  simp [State.SpriteHits, Fin.ext_iff]

theorem ofNat_add_inj {m : Nat} [NeZero m] (a b c : Nat) (hb : b < m) (hc : c < m)
    (h : Fin.ofNat m (a + b) = Fin.ofNat m (a + c)) : b = c := by
  have h' := congrArg Fin.val h
  simp only [Fin.val_ofNat] at h'
  have := Nat.ModEq.add_left_cancel' a h'
  rwa [Nat.ModEq, Nat.mod_eq_of_lt hb, Nat.mod_eq_of_lt hc] at this

/-- No pixel is addressed twice within one `Draw` (R163): a sprite is narrower than 64 and lower than 32. -/
theorem State.spritePixels_nodup (s : State) (vx vy : Byte) (n : Nat) (hn : n ≤ 32) :
    (s.spritePixels vx vy n).Nodup := by
  unfold State.spritePixels
  rw [List.nodup_flatMap]
  refine ⟨fun row _ => ?_, ?_⟩
  · refine (List.nodup_map_iff_inj_on (List.nodup_range.filter _)).2 fun a ha b hb hab => ?_
    have ha' := (List.mem_filter.1 ha).1
    have hb' := (List.mem_filter.1 hb).1
    rw [List.mem_range] at ha' hb'
    exact ofNat_add_inj _ a b (by omega) (by omega) (Prod.ext_iff.1 hab).1
  · refine List.Pairwise.imp_of_mem ?_ List.nodup_range
    intro r r' hr hr' hne p hp hp'
    rw [List.mem_range] at hr hr'
    obtain ⟨c, _, _, rfl⟩ := (mem_rowPixels _ _ _ _ _).1 hp
    obtain ⟨c', _, _, h⟩ := (mem_rowPixels _ _ _ _ _).1 hp'
    exact hne (ofNat_add_inj _ r r' (by omega) (by omega) (Prod.ext_iff.1 h).2)

/-! ### Toggling -/

/-- What `xorPixel` does to one pixel. -/
theorem xorPixel_pixel (r : DrawResult) (p : Fin 64 × Fin 32) (x : Fin 64) (y : Fin 32) :
    Display.pixel (xorPixel r p).disp x y =
      if (x, y) = p then !Display.pixel r.disp x y else Display.pixel r.disp x y := by
  obtain ⟨px, py⟩ := p
  simp only [xorPixel, Display.pixel_setPixel]
  split
  · rename_i h; cases h; rfl
  · rfl

/-- Toggling distinct pixels: each of them is toggled and no other, a lit one among them is a collision, and the batch has
one record for each, in order, with its new value. -/
theorem foldl_xorPixel (ps : List (Fin 64 × Fin 32)) (r : DrawResult) (h : ps.Nodup) :
    (∀ x y, Display.pixel (ps.foldl xorPixel r).disp x y =
      if (x, y) ∈ ps then !Display.pixel r.disp x y else Display.pixel r.disp x y) ∧
    (ps.foldl xorPixel r).collision = (r.collision || ps.any fun p => Display.pixel r.disp p.1 p.2) ∧
    (ps.foldl xorPixel r).batch = r.batch ++ ps.map fun p => ⟨p.1, p.2, !Display.pixel r.disp p.1 p.2⟩ := by
  induction ps generalizing r with
  | nil => simp
  | cons p ps ih =>
    obtain ⟨hp, hps⟩ := List.nodup_cons.1 h
    obtain ⟨h1, h2, h3⟩ := ih (xorPixel r p) hps
    have hsame : ∀ q ∈ ps, Display.pixel (xorPixel r p).disp q.1 q.2 = Display.pixel r.disp q.1 q.2 := by
      intro q hq
      rw [xorPixel_pixel, if_neg (fun e => hp (by rw [← show q = p from e]; exact hq))]
    refine ⟨fun x y => ?_, ?_, ?_⟩
    · rw [List.foldl_cons, h1, xorPixel_pixel]
      by_cases hq : (x, y) = p
      · simp [hq, hp]
      · simp [hq]
    · rw [List.foldl_cons, h2, List.any_cons, ← Bool.or_assoc]
      congr 1
      rw [Bool.eq_iff_iff, List.any_eq_true, List.any_eq_true]
      exact ⟨fun ⟨q, hq, he⟩ => ⟨q, hq, hsame q hq ▸ he⟩, fun ⟨q, hq, he⟩ => ⟨q, hq, (hsame q hq).symm ▸ he⟩⟩
    · rw [List.foldl_cons, h3, List.map_cons, List.map_congr_left (fun q hq => by rw [hsame q hq])]
      simp [xorPixel]

/-- What `Draw` does to the display, its collision and its batch, for a list of distinct pixels. -/
theorem xorPixels_spec (d : Display) (ps : List (Fin 64 × Fin 32)) (h : ps.Nodup) :
    (∀ x y, Display.pixel (xorPixels d ps).disp x y =
      if (x, y) ∈ ps then !Display.pixel d x y else Display.pixel d x y) ∧
    (xorPixels d ps).collision = (ps.any fun p => Display.pixel d p.1 p.2) ∧
    (xorPixels d ps).batch = ps.map fun p => ⟨p.1, p.2, !Display.pixel d p.1 p.2⟩ := by
  obtain ⟨h1, h2, h3⟩ := foldl_xorPixel ps ⟨d, false, []⟩ h
  exact ⟨h1, h2.trans (Bool.false_or _), h3.trans (List.nil_append _)⟩

/-- A consumer that applies the batch so far has the display so far. -/
theorem applyBatch_foldl_xorPixel (d : Display) (ps : List (Fin 64 × Fin 32)) (r : DrawResult)
    (h : applyBatch d r.batch = r.disp) : applyBatch d (ps.foldl xorPixel r).batch = (ps.foldl xorPixel r).disp := by
  induction ps generalizing r with
  | nil => exact h
  | cons p ps ih =>
    refine ih _ ?_
    unfold applyBatch at *
    simp only [xorPixel, List.foldl_append, h, List.foldl_cons, List.foldl_nil]

/-! ### The batch of `Clear` -/

theorem grid_length {α : Type} (f : Nat → Nat → α) (m k : Nat) :
    ((List.range m).flatMap fun i => (List.range k).map (f i)).length = m * k := by
  simp

/-- Entry `j` of a grid listed row by row. -/
theorem grid_getElem? {α : Type} (f : Nat → Nat → α) (m k j : Nat) (hj : j < m * k) :
    ((List.range m).flatMap fun i => (List.range k).map (f i))[j]? = some (f (j / k) (j % k)) := by
  induction m with
  | zero => simp at hj
  | succ m ih =>
    rw [List.range_succ, List.flatMap_append]
    by_cases h : j < m * k
    · rw [List.getElem?_append_left (by rw [grid_length]; exact h), ih h]
    · rw [List.getElem?_append_right (by rw [grid_length]; omega), grid_length]
      rw [Nat.succ_mul] at hj
      have h1 : j / k = m := Nat.div_eq_of_lt_le (by omega) (by rw [Nat.succ_mul]; omega)
      have h2 : j % k = j - m * k := by rw [Nat.mod_eq_sub, h1, Nat.mul_comm]
      have h3 : j - m * k < k := by omega
      simp [h1, h2, h3]

theorem clearBatch_length : clearBatch.length = 2048 := grid_length _ 32 64

theorem clearBatch_getElem? (k : Nat) (h : k < 2048) :
    clearBatch[k]? = some ⟨Fin.ofNat 64 (k % 64), Fin.ofNat 32 (k / 64), false⟩ :=
  grid_getElem? (fun py px => (⟨Fin.ofNat 64 px, Fin.ofNat 32 py, false⟩ : PixelUpdate)) 32 64 k h

theorem clearBatch_value (r : PixelUpdate) (h : r ∈ clearBatch) : r.value = false := by
  obtain ⟨y, _, h⟩ := List.mem_flatMap.1 h
  obtain ⟨x, _, rfl⟩ := List.mem_map.1 h
  rfl

theorem mem_clearBatch (x : Fin 64) (y : Fin 32) : ⟨x, y, false⟩ ∈ clearBatch :=
  List.mem_flatMap.2 ⟨y.val, by simp, List.mem_map.2 ⟨x.val, by simp, by simp⟩⟩

end Sys2Proof.Machine
end

