-- ==== Sys2Proof/Laws/Exec.lean ====
section
/-!
SUPPORT. What an execution and a step can do at all: an instruction answers a next state, and either raises or leaves the machine's
control state alone; and the nine shapes of a step.
-/

namespace Sys2Proof.Machine

/-- `t` has the control state of `s`: the halt registers, the diagnostic stream, the tick latch, the prescaler, the schedule. -/
structure SameControl (s t : State) : Prop where
  halted : t.halted = s.halted
  faultCause : t.faultCause = s.faultCause
  faultPc : t.faultPc = s.faultPc
  faultWord : t.faultWord = s.faultWord
  diag : t.diag = s.diag
  tickPending : t.tickPending = s.tickPending
  tickLost : t.tickLost = s.tickLost
  tdiv : t.tdiv = s.tdiv
  agenda : t.agenda = s.agenda

theorem SameControl.refl (s : State) : SameControl s s := ⟨rfl, rfl, rfl, rfl, rfl, rfl, rfl, rfl, rfl⟩

theorem SameControl.applyNext {s u : State} (h : SameControl s u) (n : NextPc) : SameControl s (u.applyNext n) := by
  cases n <;> exact ⟨h.1, h.2, h.3, h.4, h.5, h.6, h.7, h.8, h.9⟩

/-- An outcome of an instruction: it raises a cause of its own, or it goes on with the same control state. -/
def RaisesOrGoesOn (s : State) (o : Host.Outcome State Fault Refusal) : Prop :=
  (∃ c, c ≠ FaultCause.none ∧ c ≠ .fetchOutOfRange ∧ c ≠ .timingLost ∧ o = .next (s.raiseFatal c s.fetchedWord)) ∨
  ∃ t, o = .next t ∧ SameControl s t

theorem RaisesOrGoesOn.fatal (s : State) (c : FaultCause) (h : c ≠ .none ∧ c ≠ .fetchOutOfRange ∧ c ≠ .timingLost) :
    RaisesOrGoesOn s (fatal c s) := .inl ⟨c, h.1, h.2.1, h.2.2, rfl⟩

theorem RaisesOrGoesOn.next {s t : State} (h : SameControl s t) : RaisesOrGoesOn s (.next t) := .inr ⟨t, rfl, h⟩

theorem RaisesOrGoesOn.testKey (x : Reg) (n m : NextPc) (s : State) : RaisesOrGoesOn s (testKey x n m s) := by
  unfold Machine.testKey
  split
  · exact .fatal s _ (by decide)
  · split
    · exact .next (SameControl.applyNext (u := s.consumeKey _) (by constructor <;> simp) _)
    · exact .next ((SameControl.refl s).applyNext _)

/-- Every instruction raises or goes on. -/
theorem exec_raisesOrGoesOn (i : Instr) (s : State) : RaisesOrGoesOn s (exec i s) := by
  cases i
  case call n =>
    simp only [exec, execCall]
    split
    · exact .fatal s _ (by decide)
    · exact .next (by constructor <;> simp)
  case ret =>
    simp only [exec, execRet]
    split
    · exact .fatal s _ (by decide)
    · exact .next (by constructor <;> simp)
  case bcd x =>
    simp only [exec, execBcd]
    split
    · exact .fatal s _ (by decide)
    · exact .next (by constructor <;> simp)
  case store x =>
    simp only [exec, execStore]
    split
    · exact .fatal s _ (by decide)
    · exact .next (by constructor <;> simp)
  case load x =>
    simp only [exec, execLoad]
    split
    · exact .fatal s _ (by decide)
    · exact .next (by rw [State.loadBlock_frame]; constructor <;> simp)
  case draw x y n =>
    simp only [exec, execDraw]
    split
    · exact .fatal s _ (by decide)
    · exact .next (by constructor <;> simp)
  case addI x =>
    simp only [exec, execAddI]
    split
    · exact .fatal s _ (by decide)
    · exact .next (by constructor <;> simp)
  case skipOnKeyPressed x => exact .testKey ..
  case skipOnKeyNotPressed x => exact .testKey ..
  case waitKey x =>
    simp only [exec, execWaitKey]
    split
    · exact .next (by constructor <;> simp)
    · exact .next (SameControl.refl s)
  all_goals exact .next (by constructor <;> simp)

/-- Every instruction answers a next state. -/
theorem exec_next (i : Instr) (s : State) : ∃ t, exec i s = .next t := by
  rcases exec_raisesOrGoesOn i s with ⟨c, _, _, _, h⟩ | ⟨t, h, _⟩
  · exact ⟨_, h⟩
  · exact ⟨t, h⟩

/-- Taking the turn off the agenda changes nothing else. -/
theorem State.turn_frame (s : State) : s.turn.2 = { s with agenda := s.turn.2.agenda } := by
  unfold State.turn
  split <;> rfl

/-- The shapes of a step, for the agent `a` whose turn it is and the state `u` it steps from. -/
inductive StepShape (a : AgentStep) (u t : State) : Prop where
  | idlePoll (ha : a = .poll) (ht : t = u)
  | fetchFault (ha : a = .poll) (hh : u.halted = false) (hp : 0xFFE < u.pc.toNat)
      (ht : t = State.raiseFatal { u with tickPending := false } .fetchOutOfRange 0x0000)
  | timingLost (ha : a = .poll) (hh : u.halted = false) (hp : u.tickPending = false) (hl : u.tickLost = true)
      (ht : t = u.raiseFatal .timingLost 0x0000)
  | unrecognised (ha : a = .poll) (hh : u.halted = false) (hp : u.pc.toNat ≤ 0xFFE) (hd : decode u.fetchedWord = none)
      (ht : t = endCycle (State.skipUnrecognised { u with tickPending := false } u.fetchedWord))
  | executed (ha : a = .poll) (hh : u.halted = false) (hp : u.pc.toNat ≤ 0xFFE) (i : Instr)
      (hd : decode u.fetchedWord = some i) (v : State) (he : exec i { u with tickPending := false } = .next v)
      (ht : t = endCycle v)
  | tick (ha : a = .tick) (ht : t = u.tick)
  | disconnect (ha : a = .disconnect) (ht : t = u.disconnect)
  | press (k : KeyId) (ha : a = .press k) (ht : t = u.press k)
  | drain (ha : a = .drain) (ht : t = u.drain)
  | reset (rom : List Byte) (ha : a = .reset rom) (hl : rom.length ≤ romMax)
      (ht : t = { State.reset with
        mem := Memory.writeList [] romBase rom, rndDraws := u.rndDraws, agenda := u.agenda })

theorem step_shape (s t : State) (h : step s = .next t) : StepShape s.turn.1 s.turn.2 t := by
  unfold step at h
  generalize s.turn.2 = u at h
  generalize s.turn.1 = a at h
  cases a with
  | poll =>
    simp only [agentStep, poll] at h
    split_ifs at h with h1 h2 h3
    · exact .idlePoll rfl (Host.Outcome.next.inj h).symm
    · unfold cycle at h
      have h1' : u.halted = false := by simpa using h1
      split_ifs at h with h4
      · exact .fetchFault rfl h1' h4 (Host.Outcome.next.inj h).symm
      · split at h
        · rename_i hd
          exact .unrecognised rfl h1' (by simpa using h4) hd (Host.Outcome.next.inj h).symm
        · rename_i i hd
          obtain ⟨v, hv⟩ := exec_next i { u with tickPending := false }
          rw [hv] at h
          exact .executed rfl h1' (by simpa using h4) i hd v hv (Host.Outcome.next.inj h).symm
    · exact .timingLost rfl (by simpa using h1) (by simpa using h2) h3 (Host.Outcome.next.inj h).symm
    · exact .idlePoll rfl (Host.Outcome.next.inj h).symm
  | tick => exact .tick rfl (Host.Outcome.next.inj h).symm
  | disconnect => exact .disconnect rfl (Host.Outcome.next.inj h).symm
  | press k => exact .press k rfl (Host.Outcome.next.inj h).symm
  | drain => exact .drain rfl (Host.Outcome.next.inj h).symm
  | reset rom =>
    simp only [agentStep, State.resetWith] at h
    split_ifs at h with hl
    exact .reset rom rfl hl (Host.Outcome.next.inj h).symm

end Sys2Proof.Machine
end

