-- ==== Sys2Proof/Laws/PerInstr.lean ====
section
/-!
SUPPORT. A fact about every instruction as syntax: its word has the constant bits of its row of the opcode table
(30_encoding.md R80), one lemma per constructor.
-/

namespace Sys2Proof

/-- `match` and `mask` of an instruction's row of R80. -/
def tableRow : Instr → Word × Word
  | .clear => (0x00E0, 0xFFFF)
  | .ret => (0x00EE, 0xFFFF)
  | .sys _ => (0x0000, 0xF000)
  | .jump _ => (0x1000, 0xF000)
  | .call _ => (0x2000, 0xF000)
  | .skipEqByte _ _ => (0x3000, 0xF000)
  | .skipNeByte _ _ => (0x4000, 0xF000)
  | .skipEqReg _ _ => (0x5000, 0xF000)
  | .loadByte _ _ => (0x6000, 0xF000)
  | .addByte _ _ => (0x7000, 0xF000)
  | .move _ _ => (0x8000, 0xF00F)
  | .or _ _ => (0x8001, 0xF00F)
  | .and _ _ => (0x8002, 0xF00F)
  | .xor _ _ => (0x8003, 0xF00F)
  | .add _ _ => (0x8004, 0xF00F)
  | .subXY _ _ => (0x8005, 0xF00F)
  | .shiftRight _ _ => (0x8006, 0xF00F)
  | .subYX _ _ => (0x8007, 0xF00F)
  | .shiftLeft _ _ => (0x800E, 0xF00F)
  | .skipNeReg _ _ => (0x9000, 0xF000)
  | .loadI _ => (0xA000, 0xF000)
  | .jumpV0 _ => (0xB000, 0xF000)
  | .random _ _ => (0xC000, 0xF000)
  | .draw _ _ _ => (0xD000, 0xF000)
  | .skipOnKeyPressed _ => (0xE09E, 0xF0FF)
  | .skipOnKeyNotPressed _ => (0xE0A1, 0xF0FF)
  | .readDelay _ => (0xF007, 0xF0FF)
  | .waitKey _ => (0xF00A, 0xF0FF)
  | .setDelay _ => (0xF015, 0xF0FF)
  | .setSound _ => (0xF018, 0xF0FF)
  | .addI _ => (0xF01E, 0xF0FF)
  | .loadFont _ => (0xF029, 0xF0FF)
  | .bcd _ => (0xF033, 0xF0FF)
  | .store _ => (0xF055, 0xF0FF)
  | .load _ => (0xF065, 0xF0FF)

theorem append_and_append {m n : Nat} (a a' : BitVec m) (b b' : BitVec n) :
    (a ++ b) &&& (a' ++ b') = (a &&& a') ++ (b &&& b') := by
  refine BitVec.eq_of_getLsbD_eq fun k _ => ?_
  simp only [BitVec.getLsbD_and, BitVec.getLsbD_append]
  split <;> rfl

/-- The four nibbles of a word and-ed one by one. -/
theorem wordXYN_and (g g' : Nibble) (x x' y y' : Reg) (n n' : Nibble) :
    wordXYN g x y n &&& wordXYN g' x' y' n' = wordXYN (g &&& g') (x &&& x') (y &&& y') (n &&& n') := by
  simp only [wordXYN]
  rw [append_and_append, append_and_append, append_and_append]

theorem wordXKK_and (g g' : Nibble) (x x' : Reg) (k k' : Byte) :
    wordXKK g x k &&& wordXKK g' x' k' = wordXKK (g &&& g') (x &&& x') (k &&& k') := by
  simp only [wordXKK]
  rw [append_and_append, append_and_append]

theorem wordNNN_and (g g' : Nibble) (a a' : Addr12) :
    wordNNN g a &&& wordNNN g' a' = wordNNN (g &&& g') (a &&& a') := by
  exact append_and_append _ _ _ _

/-- Masked to its group, a word of format NNN is its group. -/
theorem wordNNN_mask (g : Nibble) (a : Addr12) : wordNNN g a &&& 0xF000 = wordNNN g 0 := by
  have h : (0xF000 : Word) = wordNNN (BitVec.allOnes 4) 0#12 := by decide
  rw [h, wordNNN_and, BitVec.and_allOnes, BitVec.and_zero]
  rfl

theorem wordXKK_maskG (g : Nibble) (x : Reg) (k : Byte) : wordXKK g x k &&& 0xF000 = wordXKK g 0 0 := by
  have h : (0xF000 : Word) = wordXKK (BitVec.allOnes 4) 0#4 0#8 := by decide
  rw [h, wordXKK_and, BitVec.and_allOnes, BitVec.and_zero, BitVec.and_zero]
  rfl

theorem wordXKK_maskGK (g : Nibble) (x : Reg) (k : Byte) : wordXKK g x k &&& 0xF0FF = wordXKK g 0 k := by
  have h : (0xF0FF : Word) = wordXKK (BitVec.allOnes 4) 0#4 (BitVec.allOnes 8) := by decide
  rw [h, wordXKK_and, BitVec.and_allOnes, BitVec.and_zero, BitVec.and_allOnes]
  rfl

theorem wordXYN_maskG (g : Nibble) (x y : Reg) (n : Nibble) : wordXYN g x y n &&& 0xF000 = wordXYN g 0 0 0 := by
  have h : (0xF000 : Word) = wordXYN (BitVec.allOnes 4) 0#4 0#4 0#4 := by decide
  rw [h, wordXYN_and, BitVec.and_allOnes, BitVec.and_zero, BitVec.and_zero, BitVec.and_zero]
  rfl

theorem wordXYN_maskGN (g : Nibble) (x y : Reg) (n : Nibble) : wordXYN g x y n &&& 0xF00F = wordXYN g 0 0 n := by
  have h : (0xF00F : Word) = wordXYN (BitVec.allOnes 4) 0#4 0#4 (BitVec.allOnes 4) := by decide
  rw [h, wordXYN_and, BitVec.and_allOnes, BitVec.and_zero, BitVec.and_zero, BitVec.and_allOnes]
  rfl

namespace Laws.TableRow

/-- The word of `i`, masked as its row says, is its row's match. -/
def Statement (i : Instr) : Prop := encode i &&& (tableRow i).2 = (tableRow i).1

theorem clear : Statement .clear := by unfold Statement; decide

theorem ret : Statement .ret := by unfold Statement; decide

theorem sys (nnn : Addr12) : Statement (.sys nnn) :=
  wordNNN_mask _ _

theorem jump (nnn : Addr12) : Statement (.jump nnn) :=
  wordNNN_mask _ _

theorem call (nnn : Addr12) : Statement (.call nnn) :=
  wordNNN_mask _ _

theorem skipEqByte (x : Reg) (kk : Byte) : Statement (.skipEqByte x kk) :=
  wordXKK_maskG _ _ _

theorem skipNeByte (x : Reg) (kk : Byte) : Statement (.skipNeByte x kk) :=
  wordXKK_maskG _ _ _

theorem skipEqReg (x y : Reg) : Statement (.skipEqReg x y) :=
  wordXYN_maskG _ _ _ _

theorem loadByte (x : Reg) (kk : Byte) : Statement (.loadByte x kk) :=
  wordXKK_maskG _ _ _

theorem addByte (x : Reg) (kk : Byte) : Statement (.addByte x kk) :=
  wordXKK_maskG _ _ _

theorem move (x y : Reg) : Statement (.move x y) :=
  wordXYN_maskGN _ _ _ _

theorem or (x y : Reg) : Statement (.or x y) :=
  wordXYN_maskGN _ _ _ _

theorem and (x y : Reg) : Statement (.and x y) :=
  wordXYN_maskGN _ _ _ _

theorem xor (x y : Reg) : Statement (.xor x y) :=
  wordXYN_maskGN _ _ _ _

theorem add (x y : Reg) : Statement (.add x y) :=
  wordXYN_maskGN _ _ _ _

theorem subXY (x y : Reg) : Statement (.subXY x y) :=
  wordXYN_maskGN _ _ _ _

theorem shiftRight (x y : Reg) : Statement (.shiftRight x y) :=
  wordXYN_maskGN _ _ _ _

theorem subYX (x y : Reg) : Statement (.subYX x y) :=
  wordXYN_maskGN _ _ _ _

theorem shiftLeft (x y : Reg) : Statement (.shiftLeft x y) :=
  wordXYN_maskGN _ _ _ _

theorem skipNeReg (x y : Reg) : Statement (.skipNeReg x y) :=
  wordXYN_maskG _ _ _ _

theorem loadI (nnn : Addr12) : Statement (.loadI nnn) :=
  wordNNN_mask _ _

theorem jumpV0 (nnn : Addr12) : Statement (.jumpV0 nnn) :=
  wordNNN_mask _ _

theorem random (x : Reg) (kk : Byte) : Statement (.random x kk) :=
  wordXKK_maskG _ _ _

theorem draw (x y : Reg) (n : Nibble) : Statement (.draw x y n) :=
  wordXYN_maskG _ _ _ _

theorem skipOnKeyPressed (x : Reg) : Statement (.skipOnKeyPressed x) :=
  wordXKK_maskGK _ _ _

theorem skipOnKeyNotPressed (x : Reg) : Statement (.skipOnKeyNotPressed x) :=
  wordXKK_maskGK _ _ _

theorem readDelay (x : Reg) : Statement (.readDelay x) :=
  wordXKK_maskGK _ _ _

theorem waitKey (x : Reg) : Statement (.waitKey x) :=
  wordXKK_maskGK _ _ _

theorem setDelay (x : Reg) : Statement (.setDelay x) :=
  wordXKK_maskGK _ _ _

theorem setSound (x : Reg) : Statement (.setSound x) :=
  wordXKK_maskGK _ _ _

theorem addI (x : Reg) : Statement (.addI x) :=
  wordXKK_maskGK _ _ _

theorem loadFont (x : Reg) : Statement (.loadFont x) :=
  wordXKK_maskGK _ _ _

theorem bcd (x : Reg) : Statement (.bcd x) :=
  wordXKK_maskGK _ _ _

theorem store (x : Reg) : Statement (.store x) :=
  wordXKK_maskGK _ _ _

theorem load (x : Reg) : Statement (.load x) :=
  wordXKK_maskGK _ _ _

end Laws.TableRow

end Sys2Proof
end

