-- ==== Sys2Proof/Tests/Slice0.lean ====
section
/-!
SUPPORT. Tests of one execution or one step each, their expected results from spec/95_test_vectors.md (the vector's name stands in
each comment) or worked out by hand from the rule named; the well-formedness smoke test; and, for each statement of
Certificates/Slice0/Obligations.lean that has hypotheses, a concrete state that meets them, clause by clause at the boundaries.
-/

namespace Sys2Proof.Tests

open Sys2Proof Sys2Proof.Machine

/-! ### Helpers -/

/-- The launch state with some registers set. -/
def regs (rs : List (Reg × Byte)) : State := rs.foldl (fun s p => s.setV p.1 p.2) State.reset

/-- A state with the call stack at depth `d`. -/
def atDepth (s : State) (d : Fin 17) : State := { s with sp := d }

/-- A state at another `pc`. -/
def atPc (s : State) (a : Word) : State := { s with pc := a }

/-- `i` answers a next state that passes `p`. -/
def runs (i : Instr) (s : State) (p : State → Bool) : Bool :=
  match exec i s with
  | .next t => p t
  | .fault _ => false
  | .refused _ => false

/-- The word `w`, decoded and executed, answers a next state that passes `p`. -/
def runsWord (w : Word) (s : State) (p : State → Bool) : Bool :=
  match decode w with
  | some i => runs i s p
  | none => false

/-- One step of the machine answers a next state that passes `p`. -/
def steps (s : State) (p : State → Bool) : Bool :=
  match step s with
  | .next t => p t
  | .fault _ => false
  | .refused _ => false

/-- The state `i` answers with. -/
def after (i : Instr) (s : State) : State :=
  match exec i s with
  | .next t => t
  | .fault _ => s
  | .refused _ => s

/-! ### Well-formedness: the one check, on the two words that are not `Sys` -/

theorem test_wf_sys_cls : Instr.wellFormed (.sys 0x0E0) = false := by decide
theorem test_wf_sys_ret : Instr.wellFormed (.sys 0x0EE) = false := by decide
theorem test_wf_sys_neighbours : Instr.wellFormed (.sys 0x0E1) = true ∧ Instr.wellFormed (.sys 0xFFF) = true := by decide

/-! ### Decoding: every constructor, from words written out field by field (30_encoding.md R80; vectors E1 to E27) -/

theorem test_decode_fixed : decode 0b0000000011100000 = some .clear ∧ decode 0b0000000011101110 = some .ret := by decide
theorem test_decode_sys : decode 0b0000_000000000000 = some (.sys 0x000) ∧ decode 0b0000_111111111111 = some (.sys 0xFFF) ∧
    decode 0x00E1 = some (.sys 0x0E1) ∧ decode 0x00FF = some (.sys 0x0FF) := by decide
theorem test_decode_jump : decode 0b0001_101000011110 = some (.jump 0xA1E) := by decide
theorem test_decode_call : decode 0b0010_001000000000 = some (.call 0x200) := by decide
theorem test_decode_skip_byte : decode 0b0011_1010_11111111 = some (.skipEqByte 0xA 0xFF) ∧
    decode 0b0100_0000_00010010 = some (.skipNeByte 0x0 0x12) := by decide
theorem test_decode_skip_reg : decode 0b0101_0001_0010_0000 = some (.skipEqReg 1 2) ∧ decode 0x512F = some (.skipEqReg 1 2) ∧
    decode 0b1001_0001_0010_0001 = some (.skipNeReg 1 2) := by decide
theorem test_decode_byte_ops : decode 0b0110_1111_00010010 = some (.loadByte 0xF 0x12) ∧
    decode 0b0111_1010_00000001 = some (.addByte 0xA 0x01) ∧ decode 0b1100_0001_00001111 = some (.random 1 0x0F) := by decide
theorem test_decode_group8 : decode 0b1000_0010_0001_0000 = some (.move 2 1) ∧ decode 0b1000_0010_0001_0001 = some (.or 2 1) ∧
    decode 0b1000_0010_0001_0010 = some (.and 2 1) ∧ decode 0b1000_0010_0001_0011 = some (.xor 2 1) ∧
    decode 0b1000_0010_0001_0100 = some (.add 2 1) ∧ decode 0b1000_0010_0001_0101 = some (.subXY 2 1) ∧
    decode 0b1000_0010_0001_0110 = some (.shiftRight 2 1) ∧ decode 0b1000_0010_0001_0111 = some (.subYX 2 1) ∧
    decode 0b1000_0010_0001_1110 = some (.shiftLeft 2 1) := by decide
theorem test_decode_index : decode 0b1010_001100000000 = some (.loadI 0x300) ∧
    decode 0b1011_111111111111 = some (.jumpV0 0xFFF) := by decide
theorem test_decode_draw : decode 0b1101_1010_1011_1100 = some (.draw 0xA 0xB 0xC) := by decide
theorem test_decode_groupE : decode 0b1110_0001_10011110 = some (.skipOnKeyPressed 1) ∧
    decode 0b1110_0001_10100001 = some (.skipOnKeyNotPressed 1) := by decide
theorem test_decode_groupF_timers : decode 0b1111_0001_00000111 = some (.readDelay 1) ∧
    decode 0b1111_0001_00001010 = some (.waitKey 1) ∧ decode 0b1111_0001_00010101 = some (.setDelay 1) ∧
    decode 0b1111_0001_00011000 = some (.setSound 1) := by decide
theorem test_decode_groupF_index : decode 0b1111_0001_00011110 = some (.addI 1) ∧
    decode 0b1111_0001_00101001 = some (.loadFont 1) ∧ decode 0b1111_0001_00110011 = some (.bcd 1) := by decide
theorem test_decode_groupF_blocks : decode 0b1111_0001_01010101 = some (.store 1) ∧
    decode 0b1111_0001_01100101 = some (.load 1) := by decide
/-- E17: reserved words are refused, not taken for a neighbour. -/
theorem test_decode_none_8 : decode 0x8218 = none ∧ decode 0x8219 = none ∧ decode 0x821A = none ∧ decode 0x821B = none ∧
    decode 0x821C = none ∧ decode 0x821D = none ∧ decode 0x821F = none := by decide
/-- E24, E26, E27. -/
theorem test_decode_none_EF : decode 0xE100 = none ∧ decode 0xE19F = none ∧ decode 0xE1A0 = none ∧ decode 0xE1FF = none ∧
    decode 0xF000 = none ∧ decode 0xF130 = none ∧ decode 0xF175 = none ∧ decode 0xF185 = none ∧ decode 0xFFFF = none := by decide
/-- The decoder refuses by name: an unrecognised word, and too few bytes. -/
theorem test_decodeBytes : decodeBytes [0x12, 0x34, 0xAA] = .ok (.jump 0x234, [0xAA]) ∧
    decodeBytes [0x82, 0x18] = .error (.unrecognised 0x8218) := by decide

/-! ### Control flow (95_test_vectors.md 2.2) -/

/-- F1. -/
theorem test_F1 : runsWord 0x1A1E State.reset (fun t => t.pc == 0x0A1E) = true := by decide
/-- F3: the pushed address is the `Call`'s own. -/
theorem test_F3 : runsWord 0x2ABC (atPc State.reset 0x0300)
    (fun t => t.stack[0] == 0x0300 && t.sp == 1 && t.pc == 0x0ABC) = true := by decide
/-- F8: the sixteenth level is usable. -/
theorem test_F8 : runsWord 0x2300 (atPc (atDepth State.reset 15) 0x0210)
    (fun t => t.stack[15] == 0x0210 && t.sp == 16 && t.pc == 0x0300 && !t.halted) = true := by decide
/-- F7. -/
theorem test_F7 : runsWord 0x2300 (atDepth State.reset 16)
    (fun t => t.faultCause == .stackOverflow && t.sp == 16 && t.pc == 0x0200 && t.halted) = true := by decide
/-- F4: the popped slot keeps its content. -/
theorem test_F4 : runsWord 0x00EE { atPc (atDepth State.reset 1) 0x0ABC with stack := State.reset.stack.set 0 0x0300 }
    (fun t => t.sp == 0 && t.pc == 0x0302 && t.stack[0] == 0x0300) = true := by decide
/-- P5a: the whole record of an empty-stack `Ret`, through `step`. -/
theorem test_P5a : steps (State.reset.withFetchWord 16 0x00EE)
    (fun t => t.halted && t.faultCause == .stackUnderflow && t.faultPc == 0x0200 && t.faultWord == 0x00EE && t.pc == 0x0200 &&
      t.diag == [⟨.fatal .stackUnderflow, 0x0200, 0x00EE⟩]) = true := by decide
/-- F10: no wrap. -/
theorem test_F10 : runsWord 0xBFFF (regs [(0, 0xFF)]) (fun t => t.pc == 0x10FE) = true := by decide
/-- F11: `V0`, never `Vx`. -/
theorem test_F11 : runsWord 0xB300 (regs [(0, 0x04), (3, 0x77)]) (fun t => t.pc == 0x0304) = true := by decide
/-- F12. -/
theorem test_F12 : runsWord 0x0123 State.reset (fun t => t == atPc State.reset 0x0202) = true := by decide
/-- F13, F14. -/
theorem test_F13_F14 : runsWord 0x3A42 (regs [(0xA, 0x42)]) (fun t => t.pc == 0x0204) = true ∧
    runsWord 0x3A42 (regs [(0xA, 0x43)]) (fun t => t.pc == 0x0202) = true := by decide
/-- F15, F16. -/
theorem test_F15_F16 : runsWord 0x4A42 (regs [(0xA, 0x42)]) (fun t => t.pc == 0x0202) = true ∧
    runsWord 0x4A42 (regs [(0xA, 0x43)]) (fun t => t.pc == 0x0204) = true := by decide
/-- F18, F19. -/
theorem test_F18_F19 : runsWord 0x512F (regs [(1, 0x07), (2, 0x07)]) (fun t => t.pc == 0x0204) = true ∧
    runsWord 0x5120 (regs [(1, 0x07), (2, 0x08)]) (fun t => t.pc == 0x0202) = true := by decide
/-- F20, F21. -/
theorem test_F20_F21 : runsWord 0x9120 (regs [(1, 0x07), (2, 0x08)]) (fun t => t.pc == 0x0204) = true ∧
    runsWord 0x9120 (regs [(1, 0x07), (2, 0x07)]) (fun t => t.pc == 0x0202) = true := by decide

/-! ### Arithmetic and logic (2.3) -/

/-- A2: `VF` is an ordinary destination. -/
theorem test_A2 : runsWord 0x6F12 State.reset (fun t => t.getV 0xF == 0x12 && t.pc == 0x0202) = true := by decide
/-- A3: no carry flag. -/
theorem test_A3 : runsWord 0x7A01 (regs [(0xA, 0xFF), (0xF, 0x55)]) (fun t => t.getV 0xA == 0x00 && t.getV 0xF == 0x55) = true := by
  decide
/-- A5. -/
theorem test_A5 : runsWord 0x8120 (regs [(1, 0x01), (2, 0xAB)]) (fun t => t.getV 1 == 0xAB && t.getV 2 == 0xAB) = true := by decide
/-- A6. -/
theorem test_A6 : runsWord 0x8121 (regs [(1, 0xF0), (2, 0x0F), (0xF, 0x77)]) (fun t => t.getV 1 == 0xFF && t.getV 0xF == 0x77) = true :=
  by decide
/-- A7. -/
theorem test_A7 : runsWord 0x8122 (regs [(1, 0xF3), (2, 0x3F), (0xF, 0x77)]) (fun t => t.getV 1 == 0x33 && t.getV 0xF == 0x77) = true :=
  by decide
/-- A8. -/
theorem test_A8 : runsWord 0x8123 (regs [(1, 0xFF), (2, 0x0F), (0xF, 0x77)]) (fun t => t.getV 1 == 0xF0 && t.getV 0xF == 0x77) = true :=
  by decide
/-- A9 and A11. -/
theorem test_A9_A11 : runsWord 0x8214 (regs [(2, 0x82), (1, 0x7D)]) (fun t => t.getV 2 == 0xFF && t.getV 0xF == 0x00) = true ∧
    runsWord 0x8214 (regs [(2, 0xFF), (1, 0xFF)]) (fun t => t.getV 2 == 0xFE && t.getV 0xF == 0x01) = true := by decide
/-- A13 and A15: `VF` as destination and as source. -/
theorem test_A13_A15 : runsWord 0x8F14 (regs [(0xF, 0xF0), (1, 0x20)]) (fun t => t.getV 0xF == 0x01) = true ∧
    runsWord 0x81F4 (regs [(0xF, 0xF0), (1, 0x20)]) (fun t => t.getV 1 == 0x10 && t.getV 0xF == 0x01) = true := by decide
/-- A18 and A19. -/
theorem test_A18_A19 : runsWord 0x8125 (regs [(1, 0x03), (2, 0x05)]) (fun t => t.getV 1 == 0xFE && t.getV 0xF == 0x00) = true ∧
    runsWord 0x8125 (regs [(1, 0x05), (2, 0x05)]) (fun t => t.getV 1 == 0x00 && t.getV 0xF == 0x01) = true := by decide
/-- A23 and A24. -/
theorem test_A23_A24 : runsWord 0x8127 (regs [(1, 0x03), (2, 0x05)]) (fun t => t.getV 1 == 0x02 && t.getV 0xF == 0x01) = true ∧
    runsWord 0x8127 (regs [(1, 0x05), (2, 0x03)]) (fun t => t.getV 1 == 0xFE && t.getV 0xF == 0x00) = true := by decide
/-- A26 and A30: the source is `Vy`, which is read before `VF` is written. -/
theorem test_A26_A30 : runsWord 0x8126 (regs [(1, 0xAA), (2, 0x05)])
      (fun t => t.getV 1 == 0x02 && t.getV 2 == 0x05 && t.getV 0xF == 0x01) = true ∧
    runsWord 0x81F6 (regs [(0xF, 0x03)]) (fun t => t.getV 1 == 0x01 && t.getV 0xF == 0x01) = true := by decide
/-- A31 and A33. -/
theorem test_A31_A33 : runsWord 0x812E (regs [(1, 0xAA), (2, 0x81)])
      (fun t => t.getV 1 == 0x02 && t.getV 2 == 0x81 && t.getV 0xF == 0x01) = true ∧
    runsWord 0x8F2E (regs [(2, 0xC0)]) (fun t => t.getV 0xF == 0x01) = true := by decide
/-- A35 and A37 as 2.3 words them for a model with free draws. -/
theorem test_A35 : exec (.random 1 0x0F) State.reset =
    .next (atPc { regs [(1, Config.rnd 0 &&& 0x0F)] with rndDraws := 1 } 0x0202) := by rfl

/-! ### Index register and memory (2.4) -/

/-- M1. -/
theorem test_M1 : runsWord 0xA123 State.reset (fun t => t.i == 0x0123) = true := by decide
/-- M3: the sum is kept, no flag. -/
theorem test_M3 : runsWord 0xF11E ((regs [(1, 0xFF)]).setI 0x0FFF) (fun t => t.i == 0x10FE && t.getV 0xF == 0x00) = true := by decide
/-- M5. -/
theorem test_M5 : runsWord 0xF11E ((regs [(1, 0x01), (0xF, 0x44)]).setI 0xFFFF)
    (fun t => t.faultCause == .indexOverflow && t.i == 0xFFFF && t.getV 0xF == 0x44) = true := by decide
/-- M9 and M9c: the whole byte is used. -/
theorem test_M9 : runsWord 0xF329 (regs [(3, 0x0F)]) (fun t => t.i == 0x004B) = true ∧
    runsWord 0xF329 (regs [(3, 0xFF)]) (fun t => t.i == 0x04FB) = true := by decide
/-- M10. -/
theorem test_M10 : runsWord 0xFA33 ((regs [(0xA, 0xFE)]).setI 0x0FF0)
    (fun t => t.mem == [(0x0FF0, 0x02), (0x0FF1, 0x05), (0x0FF2, 0x04)] && t.i == 0x0FF0) = true := by decide
/-- M14 and M15: the highest admitted `I`, and one above with no partial write. -/
theorem test_M14_M15 : runsWord 0xF033 ((regs [(0, 0xFF)]).setI 0x0FFD)
      (fun t => t.mem == [(0x0FFD, 0x02), (0x0FFE, 0x05), (0x0FFF, 0x05)]) = true ∧
    runsWord 0xF033 ((regs [(0, 0xFF)]).setI 0x0FFE) (fun t => t.faultCause == .memOutOfRange && t.mem == []) = true := by decide
/-- M16. -/
theorem test_M16 : runsWord 0xF255 (((regs [(0, 0x11), (1, 0x22), (2, 0x33), (3, 0x44)]).storeBytes 0x0403 [0xEE]).setI 0x0400)
    (fun t => t.mem == [(0x0400, 0x11), (0x0401, 0x22), (0x0402, 0x33), (0x0403, 0xEE)] && t.i == 0x0403) = true := by decide
/-- M17 and M18. -/
theorem test_M17_M18 : runsWord 0xF055 ((regs [(0, 0xAB)]).setI 0x0FFF) (fun t => t.mem == [(0x0FFF, 0xAB)] && t.i == 0x1000) = true ∧
    runsWord 0xF155 ((regs [(0, 0xAB), (1, 0xCD)]).setI 0x0FFF)
      (fun t => t.faultCause == .memOutOfRange && t.mem == [] && t.i == 0x0FFF) = true := by decide
/-- M21. -/
theorem test_M21 : runsWord 0xF265 (((regs [(3, 0x99)]).storeBytes 0x0400 [0xA1, 0xB2, 0xC3, 0xD4]).setI 0x0400)
    (fun t => t.getV 0 == 0xA1 && t.getV 1 == 0xB2 && t.getV 2 == 0xC3 && t.getV 3 == 0x99 && t.i == 0x0403) = true := by decide
/-- M22: the font, read back. -/
theorem test_M22 : runsWord 0xFF65 State.reset (fun t => t.i == 0x0010 &&
    t.v.toList == [0xF0, 0x90, 0x90, 0x90, 0xF0, 0x20, 0x60, 0x20, 0x20, 0x70, 0xF0, 0x10, 0xF0, 0x80, 0xF0, 0xF0]) = true := by decide
/-- A byte written back to its boot value leaves no entry (the canonical form; Z1: Mem[0005] = 20). -/
theorem test_memory_canonical : Memory.write (Memory.write [] 5 0x21) 5 0x20 = [] ∧ Memory.read [] 5 = 0x20 ∧
    Memory.wf [(5, 0x21), (0x300, 0x01)] = true ∧ Memory.wf [(5, 0x20)] = false ∧
    Memory.wf [(0x300, 0x01), (5, 0x21)] = false ∧ Memory.wf [(0x1000, 0x01)] = false := by decide

/-! ### Display (2.5) -/

/-- D2: the wrap in `x`, and the batch in order. -/
theorem test_D2 : runsWord 0xD011 (((regs [(0, 0x3C), (1, 0x05)]).storeBytes 0x0300 [0xFF]).setI 0x0300)
    (fun t => t.getV 0xF == 0x00 && t.channel == [[⟨60, 5, true⟩, ⟨61, 5, true⟩, ⟨62, 5, true⟩, ⟨63, 5, true⟩,
      ⟨0, 5, true⟩, ⟨1, 5, true⟩, ⟨2, 5, true⟩, ⟨3, 5, true⟩]]) = true := by decide
/-- D3 and D6: the wrap in `y`; a collision. -/
theorem test_D3_D6 : runsWord 0xD012 (((regs [(1, 0x1F)]).storeBytes 0x0300 [0x80, 0x80]).setI 0x0300)
      (fun t => t.channel == [[⟨0, 31, true⟩, ⟨0, 0, true⟩]]) = true ∧
    runsWord 0xD011 ((((regs [(0, 0x03), (1, 0x02)]).storeBytes 0x0300 [0xC0]).setI 0x0300).setDisp
        (Display.setPixel Display.blank 4 2 true))
      (fun t => t.getV 0xF == 0x01 && t.channel == [[⟨3, 2, true⟩, ⟨4, 2, false⟩]] &&
        Display.pixel t.disp 3 2 && !Display.pixel t.disp 4 2) = true := by decide
/-- D14, D15: `Clear` on a lit display, and on a blank one with `VF` kept. -/
theorem test_D14 : runs .clear ((regs [(0xF, 0x01)]).setDisp (Vector.replicate 32 (Vector.replicate 64 true)))
    (fun t => !Display.pixel t.disp 0 0 && !Display.pixel t.disp 63 31 && t.getV 0xF == 0x01) = true := by decide
theorem test_D14_batch : clearBatch.length = 2048 ∧ clearBatch[1]? = some ⟨1, 0, false⟩ ∧ clearBatch[63]? = some ⟨63, 0, false⟩ ∧
    clearBatch[64]? = some ⟨0, 1, false⟩ ∧ clearBatch[2047]? = some ⟨63, 31, false⟩ :=
  ⟨clearBatch_length, clearBatch_getElem? 1 (by decide), clearBatch_getElem? 63 (by decide), clearBatch_getElem? 64 (by decide),
    clearBatch_getElem? 2047 (by decide)⟩

/-! ### Keys and timers (2.6) -/

/-- K1 and K6. -/
theorem test_K1_K6 : runsWord 0xE19E ((regs [(1, 0x05)]).setKey 5 2) (fun t => t.key 5 == 1 && t.pc == 0x0204) = true ∧
    runsWord 0xE19E ((regs [(1, 0x0F)]).setKey 0xF 1) (fun t => t.key 0xF == 0 && t.pc == 0x0204) = true := by decide
/-- K3 and K5: the negative test consumes; an identifier is not masked. -/
theorem test_K3_K5 : runsWord 0xE1A1 ((regs [(1, 0x05)]).setKey 5 2) (fun t => t.key 5 == 1 && t.pc == 0x0202) = true ∧
    runsWord 0xE1A1 ((regs [(1, 0x10)]).setKey 0 1) (fun t => t.faultCause == .keyOutOfRange && t.key 0 == 1) = true := by decide
/-- K7 and K8: the lowest key; the stall. -/
theorem test_K7_K8 : runsWord 0xF30A (((regs [(3, 0x77)]).setKey 4 3).setKey 9 1)
      (fun t => t.getV 3 == 0x04 && t.key 4 == 2 && t.key 9 == 1 && t.pc == 0x0202) = true ∧
    runsWord 0xF30A (regs [(3, 0x77)]) (fun t => t.pc == 0x0200 && t.getV 3 == 0x77) = true := by decide
/-- K12: `ReadDelay`, then the timer logic with `TIMER_DIV` 10. -/
theorem test_K11_K12 : runsWord 0xF207 ((regs [(2, 0x99)]).setDT 0x2A) (fun t => t.getV 2 == 0x2A &&
      (t.timerTick 1).dt == 0x29 && (t.timerTick 10).dt == 0x2A && (t.timerTick 10).tdiv == 1) = true := by decide
/-- K13, K14: `SetDelay`. -/
theorem test_K13_K14 : runsWord 0xF215 (regs [(2, 0x03)])
    (fun t => (t.timerTick 1).dt == 0x02 && (t.timerTick 10).dt == 0x03 && (t.timerTick 10).tdiv == 1) = true := by decide
/-- K16, K17: `SetSound`. -/
theorem test_K16_K17 : runsWord 0xF218 (regs [(2, 0x01)]) (fun t => (t.timerTick 1).st == 0x00 && !(t.timerTick 1).tone) = true ∧
    runsWord 0xF218 (regs [(2, 0xFF)]) (fun t => (t.timerTick 1).st == 0xFE && (t.timerTick 1).tone) = true := by decide
/-- K20: the prescaler wraps. -/
theorem test_K20 : State.timerTick 10 { (State.reset.setDT 0x05).setST 0x01 with tdiv := 9 } =
    (State.reset.setDT 0x04).setST 0x00 := by decide

/-! ### Ticks, polls, presses, reset (2.7, 2.8) -/

/-- T1: a poll without a tick runs no cycle. -/
theorem test_T1 : steps { State.reset with agenda := [.poll] } (fun t => t == State.reset) = true := by decide
/-- T5. -/
theorem test_T5 : steps { State.reset with agenda := [.poll], tickLost := true }
    (fun t => t.faultCause == .timingLost && t.faultPc == 0x0200 && t.faultWord == 0x0000 && t.halted) = true := by decide
/-- F26. -/
theorem test_F26 : steps { atPc State.reset 0x0FFF with agenda := [.poll], tickPending := true }
    (fun t => t.faultCause == .fetchOutOfRange && t.faultPc == 0x0FFF && t.faultWord == 0x0000 && t.pc == 0x0FFF) = true := by decide
/-- E31: an unrecognised word is logged and stepped over. -/
theorem test_E31 : steps (State.reset.withFetchWord 16 0x8128)
    (fun t => t.pc == 0x0202 && t.diag == [⟨.decodeFailure, 0x0200, 0x8128⟩] && !t.halted) = true := by decide
/-- E30: an odd `pc` is legal. -/
theorem test_E30 : steps { atPc (State.reset.storeBytes 0x201 [0x60, 0x05]) 0x0201 with tickPending := true }
    (fun t => t.getV 0 == 0x05 && t.pc == 0x0203) = true := by decide
/-- Z1: what `reset` leaves of a ROM, from a halted state. -/
theorem test_Z1 : steps { State.reset with agenda := [.reset [0x12, 0x00]], halted := true, faultCause := .keyOutOfRange, pc := 0x0ABC }
    (fun t => t == { State.reset with mem := [(0x200, 0x12)] } && t.readMem 0x4B == 0xF0 && t.readMem 0x50 == 0x00) = true := by decide
/-- From reset with nothing placed, the first step is a tick and the second the first cycle (log entry 2). -/
theorem test_first_steps : steps State.reset (fun t => t == { State.reset with tickPending := true } &&
    steps t (fun u => u.pc == 0x0202 && !u.tickPending)) = true := by decide

/-! ### Witnesses: states and operands that meet the hypotheses of the statements -/

/-- A state whose next step is a cycle, with `pc` at the last fetchable address. -/
def cycleState : State := (atPc State.reset 0x0FFE).withFetchWord 16 0x1FFE

theorem witness_DecodeOfEncodeIsIdentity : Instr.wellFormed (.skipEqReg 0xF 0x0) = true ∧ Instr.wellFormed (.draw 0xF 0xF 0xF) = true ∧
    Instr.wellFormed (.sys 0x0E1) = true := by decide
theorem witness_DecodedOperandsAreTheFields : decode 0x5AB7 = some (.skipEqReg 0xA 0xB) ∧ decode 0xDABC = some (.draw 0xA 0xB 0xC) ∧
    decode 0x0FFF = some (.sys 0xFFF) := by decide
theorem witness_UnrecognisedWordsAreExactlyThese : (0x00E1 : Word).toNat / 0x1000 = 0x0 ∧ (0x00E1 : Word) ≠ 0x00E0 ∧
    (0x00E1 : Word) ≠ 0x00EE := by decide
theorem witness_CycleTurn_by_latch : cycleState.CycleTurn [] := ⟨.inr ⟨rfl, rfl, .inl rfl⟩, rfl, rfl⟩
theorem witness_CycleTurn_by_agenda : State.CycleTurn { cycleState with agenda := [.poll, .drain] } [.drain] :=
  ⟨.inl rfl, rfl, rfl⟩
theorem witness_StepRunsTheDecodedInstruction : cycleState.CycleTurn [] ∧ cycleState.pc.toNat ≤ 0xFFE ∧
    decodeBytes cycleState.bytesAtPc = .ok (.jump 0xFFE, []) :=
  ⟨witness_CycleTurn_by_latch, by decide, by rfl⟩
theorem witness_PlacedWordIsFetchedNext : 0xFFFF < 0x10000 ∧ cycleState.pc.toNat ≤ 0xFFE := by decide
/-- `DecodeFailureIsNoFault` has the same hypotheses. -/
theorem witness_UnrecognisedOpcodeIsLoggedAndSkipped :
    (State.reset.withFetchWord 16 0xF1FF).CycleTurn [] ∧ (State.reset.withFetchWord 16 0xF1FF).pc.toNat ≤ 0xFFE ∧
    decode (wordOfBytes ((State.reset.withFetchWord 16 0xF1FF).readMem 0x200) ((State.reset.withFetchWord 16 0xF1FF).readMem 0x201)) =
      none := ⟨⟨.inr ⟨rfl, rfl, .inl rfl⟩, rfl, rfl⟩, by decide, by decide⟩
theorem witness_FetchOutsideMemoryIsFatal : State.CycleTurn { atPc State.reset 0x0FFF with tickPending := true } [] ∧
    0xFFE < (atPc State.reset 0x0FFF).pc.toNat := ⟨⟨.inr ⟨rfl, rfl, .inl rfl⟩, rfl, rfl⟩, by decide⟩

/-- The four clauses of the poll: halted with a tick pending; a tick pending with the source lost; lost; neither. -/
def pollState (h p l : Bool) : State :=
  { State.reset with agenda := [.poll], halted := h, tickPending := p, tickLost := l }
theorem witness_PollChecksInOrder : (pollState true true true).CoreTurn [] ∧ (pollState true true true).halted = true ∧
    (pollState false true true).CoreTurn [] ∧ (pollState false true true).halted = false ∧
    (pollState false true true).tickPending = true ∧ (pollState false false true).CoreTurn [] ∧
    (pollState false false true).tickPending = false ∧ (pollState false false true).tickLost = true ∧
    (pollState false false false).CoreTurn [] ∧ (pollState false false false).tickPending = false ∧
    (pollState false false false).tickLost = false :=
  ⟨.inl rfl, rfl, .inl rfl, rfl, rfl, .inl rfl, rfl, rfl, .inl rfl, rfl, rfl⟩
/-- The same by the idle turn: nothing on the agenda, the source lost and no tick pending; halted with a tick pending. -/
theorem witness_PollChecksInOrder_idle : State.CoreTurn { State.reset with tickLost := true } [] ∧
    ({ State.reset with tickLost := true } : State).tickPending = false ∧
    State.CoreTurn { State.reset with halted := true, tickPending := true } [] :=
  ⟨.inr ⟨rfl, rfl, .inr rfl⟩, rfl, .inr ⟨rfl, rfl, .inl rfl⟩⟩
/-- The two cases of the refusal: the largest ROM is accepted, one byte more is not. -/
theorem witness_OnlyALongRomIsRefused : (List.replicate 3584 (0 : Byte)).length ≤ 3584 ∧
    3584 < (List.replicate 3585 (0 : Byte)).length :=
  ⟨List.length_replicate.le, (List.length_replicate (n := 3585) (a := (0 : Byte))).symm ▸ Nat.lt_succ_self 3584⟩

/-! Fatal conditions, each at its boundary: an execution that raises and, one step inside, one that does not. -/
theorem witness_FatalEntryIsPrecise : State.reset.halted = false ∧ exec .ret State.reset = .next (after .ret State.reset) ∧
    (after .ret State.reset).halted = true := ⟨rfl, rfl, rfl⟩
theorem witness_raise_stack : fatalCondition (atDepth State.reset 16) (.call 0) = some .stackOverflow ∧
    fatalCondition (atDepth State.reset 15) (.call 0) = none ∧ fatalCondition State.reset .ret = some .stackUnderflow ∧
    fatalCondition (atDepth State.reset 1) .ret = none := by decide
theorem witness_raise_memory : fatalCondition (State.reset.setI 0xFFE) (.bcd 0) = some .memOutOfRange ∧
    fatalCondition (State.reset.setI 0xFFD) (.bcd 0) = none ∧
    fatalCondition (State.reset.setI 0xFF1) (.store 0xF) = some .memOutOfRange ∧
    fatalCondition (State.reset.setI 0xFF0) (.store 0xF) = none ∧
    fatalCondition (State.reset.setI 0x1000) (.load 0) = some .memOutOfRange ∧
    fatalCondition (State.reset.setI 0xFFF) (.load 0) = none := by decide
theorem witness_raise_draw : fatalCondition (State.reset.setI 0x1000) (.draw 0 0 1) = some .memOutOfRange ∧
    fatalCondition (State.reset.setI 0x1234) (.draw 0 0 0) = none ∧
    fatalCondition (State.reset.setI 0xFF1) (.draw 0 0 0xF) = none := by decide
theorem witness_raise_index_key : fatalCondition ((regs [(1, 0x01)]).setI 0xFFFF) (.addI 1) = some .indexOverflow ∧
    fatalCondition ((regs [(1, 0x00)]).setI 0xFFFF) (.addI 1) = none ∧
    fatalCondition (regs [(1, 0x10)]) (.skipOnKeyPressed 1) = some .keyOutOfRange ∧
    fatalCondition (regs [(1, 0x0F)]) (.skipOnKeyNotPressed 1) = none := by decide
theorem witness_InstructionsRaiseExactlyTheirCause : State.reset.halted = false ∧
    exec (.addI 0) State.reset = .next (after (.addI 0) State.reset) := ⟨rfl, rfl⟩
theorem witness_HaltedCoreTakesNoCycle : (after .ret State.reset).halted = true ∧
    ∀ rom rest, (after .ret State.reset).agenda ≠ .reset rom :: rest := ⟨by decide, fun _ _ h => by cases h⟩

/-! The other agents. -/
theorem witness_TickIsLatched : State.TickTurn { State.reset with agenda := [.tick, .poll], tickPending := true } [.poll] ∧
    State.reset.TickTurn [] ∧ State.reset.tickLost = false := ⟨.inl rfl, .inr ⟨rfl, rfl, rfl, rfl⟩, rfl⟩
theorem witness_agenda : ({ State.reset with agenda := [.disconnect] } : State).agenda = .disconnect :: [] ∧
    ({ State.reset with agenda := [.press 0xF] } : State).agenda = .press 0xF :: [] := by decide
theorem witness_DisconnectionIsForGood : ∃ s t, s.tickLost = true ∧ (∀ rom rest, s.agenda ≠ .reset rom :: rest) ∧ step s = .next t :=
  ⟨{ State.reset with tickLost := true }, _, rfl, fun _ _ h => (by cases h), rfl⟩
theorem witness_DrainTakesTheOldestBatch :
    ({ State.reset with agenda := [.drain], channel := [[⟨1, 2, true⟩], []] } : State).channel = [⟨1, 2, true⟩] :: [[]] ∧
    ({ State.reset with agenda := [.drain] } : State).channel = [] := by decide
theorem witness_ResetLeavesTheLaunchState :
    ({ State.reset with agenda := [.reset [0x12, 0x00], .tick] } : State).agenda = .reset [0x12, 0x00] :: [.tick] ∧
    ([0x12, 0x00] : List Byte).length ≤ 3584 := by decide
/-- `TIMER_DIV` 1, where every tick is due; `TIMER_DIV` 10, one before its due tick and at it. -/
theorem witness_TimersCountObservedTicks : State.reset.tdiv < 1 ∧ State.reset.tdiv + 1 = 1 ∧
    ({ State.reset with tdiv := 8 } : State).tdiv + 1 < 10 ∧ ({ State.reset with tdiv := 9 } : State).tdiv + 1 = 10 := by decide

/-! Invariants. -/
/-- A state other than reset that meets the invariant: one slot in use at its highest address, `pc` at its bound. -/
def invState : State := { atPc (atDepth State.reset 1) 0x10FE with stack := State.reset.stack.set 0 0x0FFE }
theorem witness_EveryStepKeepsTheInvariant : invState.Inv ∧ step invState = .next { invState with tickPending := true } := by
  refine ⟨⟨rfl, by decide, ?_, ?_, fun _ => ⟨rfl, rfl, rfl⟩, fun h => by cases h⟩, by rfl⟩
  · intro k h hk
    have hz : k = 0 := Nat.lt_one_iff.1 hk
    clear hk
    subst hz
    exact (by decide : (0x0FFE : Word).toNat ≤ 0xFFE)
  · exact Nat.succ_pos _
theorem witness_ConsumerReconstructsTheDisplay : ∃ s t, replay Display.blank s.channel = s.disp ∧ s.channel ≠ [] ∧ step s = .next t :=
  ⟨{ State.reset with
      agenda := [.drain], channel := [[⟨3, 4, true⟩]], disp := Display.setPixel Display.blank 3 4 true }, _, rfl, by decide, rfl⟩

/-! Whole-machine rules: an execution of the kind each names. -/
theorem witness_OnlyClearAndDrawTouchTheDisplay : exec (.draw 0 0 5) State.reset = .next (after (.draw 0 0 5) State.reset) ∧
    writesDisplay (.draw 0 0 5) ∧ (after (.draw 0 0 5) State.reset).halted = false ∧
    (after (.draw 0 0 5) (State.reset.setI 0xFFC)).halted = true ∧ Instr.draw 0 0 5 ≠ .clear ∧ ¬ writesDisplay (.jump 0x200) ∧
    ∃ t, agentStep (.reset [0x12, 0x00]) State.reset = .next t :=
  ⟨rfl, .inr ⟨0, 0, 5, rfl⟩, by decide, by decide, fun h => (by cases h), by simp [writesDisplay], _, rfl⟩
theorem witness_OnlyCallAndRetTouchTheStack : exec (.call 0x300) State.reset = .next (after (.call 0x300) State.reset) ∧
    (after (.call 0x300) State.reset).sp = 1 ∧ 15 ≠ State.reset.sp.val ∧ ¬ touchesStack (.jump 0x300) :=
  ⟨rfl, by decide, by decide, by simp [touchesStack]⟩
theorem witness_OnlyKeyInstructionsConsumePresses :
    exec (.waitKey 0) (State.reset.setKey 3 2) = .next (after (.waitKey 0) (State.reset.setKey 3 2)) ∧
    (after (.waitKey 0) (State.reset.setKey 3 2)).key 3 = 1 ∧ ¬ consumesKeys .clear := ⟨rfl, by decide, by simp [consumesKeys]⟩
theorem witness_OnlyDestinationRegistersChange : exec (.add 1 2) State.reset = .next (after (.add 1 2) State.reset) ∧
    writesFlag (.add 1 2) = true ∧ (after (.add 1 2) State.reset).halted = false ∧ ¬ mayWrite 3 (.add 1 2) :=
  ⟨rfl, rfl, by decide, by simp [mayWrite]⟩
theorem witness_OnlyBcdAndStoreWriteMemory : exec (.store 0xF) (State.reset.setI 0xFF0) =
      .next (after (.store 0xF) (State.reset.setI 0xFF0)) ∧ ¬ writesMemory (.load 0xF) ∧
    0xFEF < (State.reset.setI 0xFF0).i.toNat ∧ (State.reset.setI 0xFF0).i.toNat + (0xF : Reg).toNat < 0x1000 :=
  ⟨rfl, by simp [writesMemory], by decide, by decide⟩
theorem witness_SpecialRegistersHaveTheirWriters : exec (.setDelay 0) State.reset = .next (after (.setDelay 0) State.reset) ∧
    ¬ writesI (.setDelay 0) ∧ (∀ x, Instr.setDelay 0 ≠ .setSound x) ∧ ∀ x kk, Instr.setDelay 0 ≠ .random x kk :=
  ⟨rfl, by simp [writesI], fun _ h => (by cases h), fun _ _ h => (by cases h)⟩
theorem witness_PcAdvanceAccounting : (after .ret State.reset).halted = true ∧ (after (.waitKey 0) State.reset).halted = false ∧
    isSkip (.skipOnKeyPressed 0) = true ∧ isJump (.bcd 0) = false ∧ isSkip (.bcd 0) = false ∧
    0 < (State.reset.setKey 0xF 1).key 0xF ∧ ∀ k, State.reset.key k = 0 := by decide
theorem witness_IdleLoopChangesOnlyTimers : cycleState.CycleTurn [] ∧ cycleState.pc.toNat = (0xFFE : Addr12).toNat ∧
    decodeBytes cycleState.bytesAtPc = .ok (.jump 0xFFE, []) := ⟨witness_CycleTurn_by_latch, by decide, by rfl⟩
theorem witness_CallThenRetReturnsPastTheCall : (atDepth State.reset 15).sp.val ≠ 16 := by decide
theorem witness_StoreThenLoadRestoresRegisters : (State.reset.setI 0xFF0).i.toNat = (0xFF0 : Addr12).toNat ∧
    (State.reset.setI 0xFF0).i.toNat + (0xF : Reg).toNat ≤ 0xFFF := by decide
theorem witness_DrawingTwiceRestoresTheDisplay : (0 : Reg) ≠ 0xF ∧ (0xE : Reg) ≠ 0xF ∧
    (State.reset.setI 0xFF1).i.toNat + (0xF : Nibble).toNat - 1 ≤ 0xFFF := by decide

/-! Per instruction: each clause at its boundary. -/
theorem witness_CallPushesItsOwnAddress : (atDepth State.reset 16).sp.val = 16 ∧ (atDepth State.reset 15).sp.val < 16 := by decide
theorem witness_RetGoesPastTheCall : State.reset.sp.val = 0 ∧ 0 < (atDepth State.reset 16).sp.val := by decide
theorem witness_ByteSkipsTestTheirRegister : (regs [(1, 0xFF)]).getV 1 = 0xFF ∧ (regs [(1, 0xFF)]).getV 1 ≠ 0x00 := by decide
theorem witness_RegisterSkipsCompareTheirRegisters : (regs [(1, 7), (2, 7)]).getV 1 = (regs [(1, 7), (2, 7)]).getV 2 ∧
    (regs [(1, 7)]).getV 1 ≠ (regs [(1, 7)]).getV 2 := by decide
theorem witness_flag_ops : (1 : Reg) ≠ 0xF ∧ (2 : Reg) ≠ 1 ∧ (2 : Reg) ≠ 0xF := by decide
theorem witness_AddIKeepsTheSumOrIsFatal : 0xFFFF < ((regs [(1, 0x01)]).setI 0xFFFF).i.toNat +
      (((regs [(1, 0x01)]).setI 0xFFFF).getV 1).toNat ∧
    ((regs [(1, 0x01)]).setI 0xFFFE).i.toNat + (((regs [(1, 0x01)]).setI 0xFFFE).getV 1).toNat ≤ 0xFFFF := by decide
theorem witness_BcdStoresThreeDigits : 0xFFD < (State.reset.setI 0xFFE).i.toNat ∧ (State.reset.setI 0xFFD).i.toNat ≤ 0xFFD := by decide
theorem witness_StoreAndLoad : 0xFFF < (State.reset.setI 0xFF1).i.toNat + (0xF : Reg).toNat ∧
    (State.reset.setI 0xFF0).i.toNat + (0xF : Reg).toNat ≤ 0xFFF := by decide
theorem witness_DrawTogglesTheSprite : 1 ≤ (1 : Nibble).toNat ∧ 0xFFF < (State.reset.setI 0x1000).i.toNat + (1 : Nibble).toNat - 1 ∧
    (0 : Nibble).toNat = 0 ∧ (State.reset.setI 0xFFF).i.toNat + (1 : Nibble).toNat - 1 ≤ 0xFFF := by decide
/-- The first pixel of the glyph of 0 is under a 1 bit (vector D1); the fifth of its row is not. -/
theorem witness_SpriteHits : State.reset.SpriteHits 0x00 0x00 5 0 0 ∧ ¬ State.reset.SpriteHits 0x00 0x00 5 4 0 := by
  rw [State.spriteHits_iff, State.spriteHits_iff]
  decide
theorem witness_KeySkipsConsumeOnePress : 0xF < ((regs [(1, 0x10)]).getV 1).toNat ∧
    (((regs [(1, 0x0F)]).setKey 0xF 1).getV 1).toNat = (0xF : KeyId).toNat ∧ 0 < ((regs [(1, 0x0F)]).setKey 0xF 1).key 0xF ∧
    ((regs [(1, 0x00)]).getV 1).toNat = (0 : KeyId).toNat ∧ (regs [(1, 0x00)]).key 0 = 0 := by decide
theorem witness_WaitKeyTakesTheLowestKeyOrStalls : 0 < (State.reset.setKey 0xF 1).key 0xF ∧
    (∀ j : KeyId, j < 0xF → (State.reset.setKey 0xF 1).key j = 0) ∧ ∀ k, State.reset.key k = 0 := by decide

end Sys2Proof.Tests
end

section
/-!
SUPPORT. `exec` as an equation: an instruction meets its fatal condition and raises, or it has an effect on the state and a
next-PC behaviour (10_state.md R25). Then what each effect leaves unchanged, from which the whole-machine rules follow.
-/

namespace Sys2Proof.Machine

/-! ### Key observations -/

/-- `V[x]` names a pressed key. -/
def State.keyDown (s : State) (x : Reg) : Bool := (s.keyOperand x).any fun k => decide (0 < s.key k)

/-- A key test's effect: the press of a pressed key is used up (44_keys_timers.md R171, R172). -/
def State.useKey (s : State) (x : Reg) : State :=
  match s.keyOperand x with
  | some k => if 0 < s.key k then s.consumeKey k else s
  | none => s

/-- The effect of `WaitKey`: the lowest pressed key goes to `V[x]` and its press is used up (44_keys_timers.md R173). -/
def State.takeKey (s : State) (x : Reg) : State :=
  match s.firstPressed with
  | some k => (s.setV x (k.setWidth 8)).consumeKey k
  | none => s

section KeyFrames
variable (s : State) (x : Reg)

/-- What a key test can do. -/
theorem State.useKey_cases : s.useKey x = s ∨ ∃ k, 0 < s.key k ∧ s.useKey x = s.consumeKey k := by
  unfold State.useKey
  split
  · rename_i k _
    split_ifs with hk
    · exact .inr ⟨k, hk, rfl⟩
    · exact .inl rfl
  · exact .inl rfl

/-- What a wait for a key can do. -/
theorem State.takeKey_cases :
    s.takeKey x = s ∨ ∃ k, 0 < s.key k ∧ s.takeKey x = (s.setV x (k.setWidth 8)).consumeKey k := by
  unfold State.takeKey
  split
  · rename_i k hk
    exact .inr ⟨k, ((s.firstPressed_some k).1 hk).1, rfl⟩
  · exact .inl rfl

theorem State.useKey_frame : s.useKey x = { s with keys := (s.useKey x).keys } := by
  rcases s.useKey_cases x with h | ⟨k, -, h⟩
  · rw [h]
  · rw [h]; rfl

theorem State.takeKey_frame : s.takeKey x = { s with v := (s.takeKey x).v, keys := (s.takeKey x).keys } := by
  rcases s.takeKey_cases x with h | ⟨k, -, h⟩
  · rw [h]
  · rw [h]; rfl

@[simp] theorem State.useKey_v : (s.useKey x).v = s.v := by rw [s.useKey_frame x]
@[simp] theorem State.useKey_i : (s.useKey x).i = s.i := by rw [s.useKey_frame x]
@[simp] theorem State.useKey_pc : (s.useKey x).pc = s.pc := by rw [s.useKey_frame x]
@[simp] theorem State.useKey_sp : (s.useKey x).sp = s.sp := by rw [s.useKey_frame x]
@[simp] theorem State.useKey_stack : (s.useKey x).stack = s.stack := by rw [s.useKey_frame x]
@[simp] theorem State.useKey_dt : (s.useKey x).dt = s.dt := by rw [s.useKey_frame x]
@[simp] theorem State.useKey_st : (s.useKey x).st = s.st := by rw [s.useKey_frame x]
@[simp] theorem State.useKey_mem : (s.useKey x).mem = s.mem := by rw [s.useKey_frame x]
@[simp] theorem State.useKey_diag : (s.useKey x).diag = s.diag := by rw [s.useKey_frame x]
@[simp] theorem State.useKey_rndDraws : (s.useKey x).rndDraws = s.rndDraws := by rw [s.useKey_frame x]
@[simp] theorem State.useKey_getV (q : Reg) : (s.useKey x).getV q = s.getV q := by simp [State.getV]

@[simp] theorem State.takeKey_i : (s.takeKey x).i = s.i := by rw [s.takeKey_frame x]
@[simp] theorem State.takeKey_pc : (s.takeKey x).pc = s.pc := by rw [s.takeKey_frame x]
@[simp] theorem State.takeKey_sp : (s.takeKey x).sp = s.sp := by rw [s.takeKey_frame x]
@[simp] theorem State.takeKey_stack : (s.takeKey x).stack = s.stack := by rw [s.takeKey_frame x]
@[simp] theorem State.takeKey_dt : (s.takeKey x).dt = s.dt := by rw [s.takeKey_frame x]
@[simp] theorem State.takeKey_st : (s.takeKey x).st = s.st := by rw [s.takeKey_frame x]
@[simp] theorem State.takeKey_mem : (s.takeKey x).mem = s.mem := by rw [s.takeKey_frame x]
@[simp] theorem State.takeKey_diag : (s.takeKey x).diag = s.diag := by rw [s.takeKey_frame x]
@[simp] theorem State.takeKey_rndDraws : (s.takeKey x).rndDraws = s.rndDraws := by rw [s.takeKey_frame x]

theorem State.takeKey_getV_ne (q : Reg) (h : q ≠ x) : (s.takeKey x).getV q = s.getV q := by
  rcases s.takeKey_cases x with hk | ⟨k, -, hk⟩
  · rw [hk]
  · rw [hk, State.consumeKey_getV, State.getV_setV_ne _ _ _ _ h]

end KeyFrames

section LoadFrames
variable (s : State) (n : Nat)

@[simp] theorem State.loadBlock_i : (s.loadBlock n).i = s.i := by rw [s.loadBlock_frame n]
@[simp] theorem State.loadBlock_pc : (s.loadBlock n).pc = s.pc := by rw [s.loadBlock_frame n]
@[simp] theorem State.loadBlock_sp : (s.loadBlock n).sp = s.sp := by rw [s.loadBlock_frame n]
@[simp] theorem State.loadBlock_stack : (s.loadBlock n).stack = s.stack := by rw [s.loadBlock_frame n]
@[simp] theorem State.loadBlock_dt : (s.loadBlock n).dt = s.dt := by rw [s.loadBlock_frame n]
@[simp] theorem State.loadBlock_st : (s.loadBlock n).st = s.st := by rw [s.loadBlock_frame n]
@[simp] theorem State.loadBlock_keys : (s.loadBlock n).keys = s.keys := by rw [s.loadBlock_frame n]
@[simp] theorem State.loadBlock_mem : (s.loadBlock n).mem = s.mem := by rw [s.loadBlock_frame n]
@[simp] theorem State.loadBlock_diag : (s.loadBlock n).diag = s.diag := by rw [s.loadBlock_frame n]
@[simp] theorem State.loadBlock_rndDraws : (s.loadBlock n).rndDraws = s.rndDraws := by rw [s.loadBlock_frame n]

end LoadFrames

/-! ### The equation of `exec` -/

/-- The pixels `Draw(x, y, n)` toggles, and what that gives (43_display.md R164). -/
def State.drawResult (s : State) (x y : Reg) (n : Nibble) : DrawResult :=
  xorPixels s.disp (s.spritePixels (s.getV x) (s.getV y) n.toNat)

/-- What an instruction that does not raise does to the state before its next-PC behaviour. -/
def State.effect (s : State) : Instr → State
  | .sys _ | .jump _ | .jumpV0 _ => s
  | .skipEqByte _ _ | .skipNeByte _ _ | .skipEqReg _ _ | .skipNeReg _ _ => s
  | .clear => (s.setDisp Display.blank).emit clearBatch
  | .draw x y n =>
    ((s.setDisp (s.drawResult x y n).disp).setV vf (flagByte (s.drawResult x y n).collision)).emit (s.drawResult x y n).batch
  | .ret => s.dropTop
  | .call _ => s.push s.pc
  | .loadByte x kk => s.setV x kk
  | .addByte x kk => s.setV x (sum8 (s.getV x) kk)
  | .move x y => s.setV x (s.getV y)
  | .or x y => s.setV x (s.getV x ||| s.getV y)
  | .and x y => s.setV x (s.getV x &&& s.getV y)
  | .xor x y => s.setV x (s.getV x ^^^ s.getV y)
  | .add x y => s.setVWithFlag x (sum8 (s.getV x) (s.getV y)) (flagByte (carryOf (s.getV x) (s.getV y)))
  | .subXY x y => s.setVWithFlag x (diff8 (s.getV x) (s.getV y)) (flagByte (notBorrow (s.getV x) (s.getV y)))
  | .shiftRight x y => s.setVWithFlag x (shr1 (s.getV y)) (flagByte (lowBit (s.getV y)))
  | .subYX x y => s.setVWithFlag x (diff8 (s.getV y) (s.getV x)) (flagByte (notBorrow (s.getV y) (s.getV x)))
  | .shiftLeft x y => s.setVWithFlag x (shl1 (s.getV y)) (flagByte (highBit (s.getV y)))
  | .random x kk => s.countDraw.setV x (Sys2Proof.Config.rnd s.rndDraws &&& kk)
  | .loadI nnn => s.setI (zext12 nnn)
  | .addI x => s.setI (s.i + zext8 (s.getV x))
  | .loadFont x => s.setI (glyphAddr (s.getV x))
  | .bcd x => s.storeBytes (s.dataAddr 0) (bcdDigits (s.getV x))
  | .store x => (s.storeBytes (s.dataAddr 0) (s.regBlock (x.toNat + 1))).setI (s.indexAfter (x.toNat + 1))
  | .load x => (s.loadBlock (x.toNat + 1)).setI (s.indexAfter (x.toNat + 1))
  | .skipOnKeyPressed x | .skipOnKeyNotPressed x => s.useKey x
  | .waitKey x => s.takeKey x
  | .readDelay x => s.setV x s.dt
  | .setDelay x => s.setDT (s.getV x)
  | .setSound x => s.setST (s.getV x)

/-- The next-PC behaviour of an instruction that does not raise (10_state.md R25). -/
def State.nextPc (s : State) : Instr → NextPc
  | .jump nnn | .call nnn => .jump (zext12 nnn)
  | .jumpV0 nnn => .jump (zext12 nnn + zext8 (s.getV 0x0))
  | .ret => .jump (s.topOfStack.getD 0 + 2)
  | .skipEqByte x kk => skipIf (s.getV x == kk)
  | .skipNeByte x kk => skipIf (s.getV x != kk)
  | .skipEqReg x y => skipIf (s.getV x == s.getV y)
  | .skipNeReg x y => skipIf (s.getV x != s.getV y)
  | .skipOnKeyPressed x => skipIf (s.keyDown x)
  | .skipOnKeyNotPressed x => skipIf (!s.keyDown x)
  | .waitKey _ => if s.firstPressed.isSome then .advance else .stall
  | .clear | .sys _ | .loadI _ => .advance
  | .loadByte _ _ | .addByte _ _ | .move _ _ | .or _ _ | .and _ _ | .xor _ _ | .random _ _ => .advance
  | .add _ _ | .subXY _ _ | .shiftRight _ _ | .subYX _ _ | .shiftLeft _ _ | .draw _ _ _ => .advance
  | .readDelay _ | .setDelay _ | .setSound _ => .advance
  | .addI _ | .loadFont _ | .bcd _ | .store _ | .load _ => .advance

/-- The state after an instruction that does not raise. -/
def State.complete (s : State) (i : Instr) : State := (s.effect i).applyNext (s.nextPc i)

/-- A key test raises on a register that names no key, and else uses the key. -/
theorem testKey_eq (x : Reg) (onPressed onNot : NextPc) (s : State) :
    testKey x onPressed onNot s =
      if 0xF < (s.getV x).toNat then fatal .keyOutOfRange s
      else .next ((s.useKey x).applyNext (bif s.keyDown x then onPressed else onNot)) := by
  split_ifs with h
  · simp only [testKey, (s.keyOperand_none x).2 h]
  · obtain ⟨k, hk⟩ := Option.ne_none_iff_exists'.1 (mt (s.keyOperand_none x).1 h)
    by_cases hp : 0 < s.key k <;> simp [testKey, State.useKey, State.keyDown, hk, hp]

theorem execWaitKey_eq (x : Reg) (s : State) : execWaitKey x s = .next (s.complete (.waitKey x)) := by
  cases h : s.firstPressed <;> simp [execWaitKey, State.complete, State.effect, State.nextPc, State.takeKey, h]

/-- The range check of a transfer of `n + 1` bytes. -/
theorem State.transferFaults_succ (s : State) (n : Nat) :
    s.transferFaults (n + 1) = true ↔ 0xFFF < s.i.toNat + n := by
  rw [State.transferFaults_iff]
  omega

/-- `exec` raises exactly on the fatal condition, and else completes. -/
theorem exec_eq (i : Instr) (s : State) :
    exec i s = (fatalCondition s i).elim (.next (s.complete i)) (fun c => fatal c s) := by
  cases i
  case call nnn =>
    simp only [exec, execCall, fatalCondition]
    split_ifs <;> rfl
  case ret =>
    by_cases h : s.sp.val = 0
    · simp [exec, execRet, fatalCondition, h, (s.topOfStack_eq_none).2 h]
    · simp [exec, execRet, fatalCondition, h, State.complete, State.effect, State.nextPc,
        s.topOfStack_of_pos (Nat.pos_of_ne_zero h)]
  case bcd x =>
    simp only [exec, execBcd, fatalCondition, s.transferFaults_succ 2]
    split_ifs <;> rfl
  case store x =>
    simp only [exec, execStore, fatalCondition, s.transferFaults_succ]
    split_ifs <;> rfl
  case load x =>
    simp only [exec, execLoad, fatalCondition, s.transferFaults_succ]
    split_ifs <;> rfl
  case draw x y n =>
    simp only [exec, execDraw, fatalCondition, s.transferFaults_iff]
    split_ifs <;> rfl
  case addI x =>
    simp only [exec, execAddI, fatalCondition]
    split_ifs <;> rfl
  case skipOnKeyPressed x =>
    have hn : (bif s.keyDown x then NextPc.skip else .advance) = skipIf (s.keyDown x) := by cases s.keyDown x <;> rfl
    simp only [exec, execSkipOnKeyPressed, testKey_eq, hn, fatalCondition]
    split_ifs <;> rfl
  case skipOnKeyNotPressed x =>
    have hn : (bif s.keyDown x then NextPc.advance else .skip) = skipIf (!s.keyDown x) := by cases s.keyDown x <;> rfl
    simp only [exec, execSkipOnKeyNotPressed, testKey_eq, hn, fatalCondition]
    split_ifs <;> rfl
  case waitKey x => exact execWaitKey_eq x s
  all_goals rfl

@[simp] theorem State.effect_diag (s : State) (i : Instr) : (s.effect i).diag = s.diag := by
  cases i <;> simp [State.effect]

/-- What an execution can answer: its fatal condition's raise, or its completion with the control state as before. A raise
lengthens the diagnostic stream and a completion does not, so the two readings of the outcome agree. -/
theorem exec_cases {i : Instr} {s t : State} (h : exec i s = .next t) :
    (∃ c, fatalCondition s i = some c ∧ c ≠ .none ∧ c ≠ .fetchOutOfRange ∧ c ≠ .timingLost ∧
        t = s.raiseFatal c s.fetchedWord) ∨
      (fatalCondition s i = none ∧ t = s.complete i ∧ SameControl s t) := by
  have houtcome := exec_raisesOrGoesOn i s
  rw [RaisesOrGoesOn, h] at houtcome
  rw [exec_eq] at h
  cases hc : fatalCondition s i with
  | some c =>
    obtain rfl : s.raiseFatal c s.fetchedWord = t := by simpa [hc, fatal] using h
    rcases houtcome with ⟨c', h1, h2, h3, hr⟩ | ⟨t, ht, hs⟩
    · obtain rfl : c = c' := congrArg State.faultCause (Host.Outcome.next.inj hr)
      exact .inl ⟨c, rfl, h1, h2, h3, rfl⟩
    · have hdiag := Host.Outcome.next.inj ht ▸ hs.diag
      simp at hdiag
  | none =>
    obtain rfl : s.complete i = t := by simpa [hc] using h
    rcases houtcome with ⟨c, -, -, -, hr⟩ | ⟨t, ht, hs⟩
    · have hdiag := congrArg State.diag (Host.Outcome.next.inj hr)
      simp [State.complete] at hdiag
    · exact .inr ⟨rfl, rfl, Host.Outcome.next.inj ht ▸ hs⟩

end Sys2Proof.Machine
end

section
/-!
SUPPORT. What the effect of an instruction leaves unchanged, field by field, and how far its next-PC behaviour moves `pc`.
-/

namespace Sys2Proof.Machine

section Effect
variable {i : Instr} (s : State)

@[simp] theorem State.effect_pc (i : Instr) : (s.effect i).pc = s.pc := by
  cases i <;> simp [State.effect]

theorem State.effect_sp (h : ¬ touchesStack i) : (s.effect i).sp = s.sp := by
  cases i
  case ret => exact absurd (.inl rfl) h
  case call nnn => exact absurd (.inr ⟨nnn, rfl⟩) h
  all_goals simp [State.effect]

theorem State.effect_stack (h : ∀ nnn, i ≠ .call nnn) : (s.effect i).stack = s.stack := by
  cases i
  case call nnn => exact absurd rfl (h nnn)
  all_goals simp [State.effect]

theorem State.effect_keys (h : ¬ consumesKeys i) : (s.effect i).keys = s.keys := by
  cases i
  case skipOnKeyPressed x => exact absurd ⟨x, .inl rfl⟩ h
  case skipOnKeyNotPressed x => exact absurd ⟨x, .inr (.inl rfl)⟩ h
  case waitKey x => exact absurd ⟨x, .inr (.inr rfl)⟩ h
  all_goals simp [State.effect]

theorem State.effect_mem (h : ¬ writesMemory i) : (s.effect i).mem = s.mem := by
  cases i
  case bcd x => exact absurd ⟨x, .inl rfl⟩ h
  case store x => exact absurd ⟨x, .inr rfl⟩ h
  all_goals simp [State.effect]

theorem State.effect_i (h : ¬ writesI i) : (s.effect i).i = s.i := by
  cases i
  case loadI nnn => exact absurd (.inl ⟨nnn, rfl⟩) h
  case addI x => exact absurd (.inr ⟨x, .inl rfl⟩) h
  case loadFont x => exact absurd (.inr ⟨x, .inr (.inl rfl)⟩) h
  case store x => exact absurd (.inr ⟨x, .inr (.inr (.inl rfl))⟩) h
  case load x => exact absurd (.inr ⟨x, .inr (.inr (.inr rfl))⟩) h
  all_goals simp [State.effect]

theorem State.effect_dt (h : ∀ x, i ≠ .setDelay x) : (s.effect i).dt = s.dt := by
  cases i
  case setDelay x => exact absurd rfl (h x)
  all_goals simp [State.effect]

theorem State.effect_st (h : ∀ x, i ≠ .setSound x) : (s.effect i).st = s.st := by
  cases i
  case setSound x => exact absurd rfl (h x)
  all_goals simp [State.effect]

theorem State.effect_rndDraws (h : ∀ x kk, i ≠ .random x kk) : (s.effect i).rndDraws = s.rndDraws := by
  cases i
  case random x kk => exact absurd rfl (h x kk)
  all_goals simp [State.effect]

theorem State.effect_getV (q : Reg) (h : ¬ mayWrite q i) : (s.effect i).getV q = s.getV q := by
  cases i
  case waitKey x => exact s.takeKey_getV_ne x q h
  case load x =>
    have hx := x.isLt
    rw [State.effect, State.setI_getV, State.loadBlock_getV _ _ (by omega), if_neg (by simpa [mayWrite] using h)]
  all_goals simp_all [State.effect, mayWrite, State.getV_setV, State.getV_setVWithFlag, vf]

theorem flagByte_eq_zero_or_one (c : Bool) : flagByte c = 0x00 ∨ flagByte c = 0x01 := by
  cases c
  · exact .inl rfl
  · exact .inr rfl

/-- The six flag-writing instructions leave a flag in `VF`. -/
theorem State.effect_vf (h : writesFlag i = true) : ∃ c, (s.effect i).getV vf = flagByte c := by
  cases i
  case draw x y n => exact ⟨(s.drawResult x y n).collision, by simp [State.effect]⟩
  case add x y => exact ⟨_, State.setVWithFlag_vf ..⟩
  case subXY x y => exact ⟨_, State.setVWithFlag_vf ..⟩
  case shiftRight x y => exact ⟨_, State.setVWithFlag_vf ..⟩
  case subYX x y => exact ⟨_, State.setVWithFlag_vf ..⟩
  case shiftLeft x y => exact ⟨_, State.setVWithFlag_vf ..⟩
  all_goals cases h

/-- The effect of an instruction keeps memory canonical. -/
theorem State.effect_mem_wf (i : Instr) (h : Memory.wf s.mem = true) : Memory.wf (s.effect i).mem = true := by
  by_cases hi : writesMemory i
  · obtain ⟨x, rfl | rfl⟩ := hi <;> exact Memory.wf_writeList _ _ _ h
  · rwa [s.effect_mem hi]

/-- Only the slot at `SP` can change. -/
theorem State.effect_slot_ne (i : Instr) (k : Nat) (hk : k < 16) (hne : k ≠ s.sp.val) :
    (s.effect i).stack[k] = s.stack[k] := by
  by_cases hi : ∃ nnn, i = .call nnn
  · obtain ⟨nnn, rfl⟩ := hi
    by_cases hsp : s.sp.val < 16
    · exact ((s.push_of_lt s.pc hsp).2 k hk).trans (if_neg hne)
    · simp only [State.effect, State.push, dif_neg hsp]
  · simp only [s.effect_stack fun nnn e => hi ⟨nnn, e⟩]

/-- One press of a pressed key used up: its counter goes down by 1 and no other changes. -/
theorem State.consumeKey_lowers_one (k : KeyId) (hk : 0 < s.key k) :
    (s.consumeKey k).key k + 1 = s.key k ∧ ∀ j, j ≠ k → (s.consumeKey k).key j = s.key j := by
  refine ⟨?_, fun j hj => ?_⟩
  · rw [State.key_consumeKey, if_pos rfl]
    omega
  · rw [State.key_consumeKey, if_neg hj]

/-- An instruction uses up at most one press. -/
theorem State.effect_keys_or_lowers_one (i : Instr) :
    (s.effect i).keys = s.keys ∨
      ∃ k, 0 < s.key k ∧ (s.effect i).key k + 1 = s.key k ∧ ∀ j, j ≠ k → (s.effect i).key j = s.key j := by
  by_cases hi : consumesKeys i
  · obtain ⟨x, rfl | rfl | rfl⟩ := hi
    case inl | inr.inl =>
      simp only [State.effect]
      rcases s.useKey_cases x with h | ⟨k, hk, h⟩
      · exact .inl (by rw [h])
      · exact .inr ⟨k, hk, h ▸ s.consumeKey_lowers_one k hk⟩
    case inr.inr =>
      simp only [State.effect]
      rcases s.takeKey_cases x with h | ⟨k, hk, h⟩
      · exact .inl (by rw [h])
      · exact .inr ⟨k, hk, h ▸ (s.setV x (k.setWidth 8)).consumeKey_lowers_one k hk⟩
  · exact .inl (s.effect_keys hi)

end Effect

/-! ### The next-PC behaviour -/

section Next
variable {i : Instr} (s : State)

theorem skipIf_eq (c : Bool) : skipIf c = .advance ∨ skipIf c = .skip := by
  cases c
  · exact .inl rfl
  · exact .inr rfl

theorem State.nextPc_of_plain (hj : isJump i = false) (hs : isSkip i = false) (hw : ∀ x, i ≠ .waitKey x) :
    s.nextPc i = .advance := by
  cases i
  case waitKey x => exact absurd rfl (hw x)
  all_goals simp_all [State.nextPc, isJump, isSkip]

theorem State.nextPc_of_skip (h : isSkip i = true) : s.nextPc i = .advance ∨ s.nextPc i = .skip := by
  cases i
  case skipEqByte x kk => exact skipIf_eq _
  case skipNeByte x kk => exact skipIf_eq _
  case skipEqReg x y => exact skipIf_eq _
  case skipNeReg x y => exact skipIf_eq _
  case skipOnKeyPressed x => exact skipIf_eq _
  case skipOnKeyNotPressed x => exact skipIf_eq _
  all_goals cases h

theorem State.complete_pc_of_advance (h : s.nextPc i = .advance) : (s.complete i).pc = s.pc + 2 := by
  rw [State.complete, h, State.applyNext_pc_advance, State.effect_pc]

theorem State.complete_pc_of_skip (h : s.nextPc i = .skip) : (s.complete i).pc = s.pc + 4 := by
  rw [State.complete, h, State.applyNext_pc_skip, State.effect_pc]

theorem State.nextPc_waitKey_pressed (x : Reg) (h : ∃ k, 0 < s.key k) : s.nextPc (.waitKey x) = .advance := by
  obtain ⟨k, hk⟩ := h
  have hf : s.firstPressed ≠ none := fun hn => by have := s.firstPressed_none.1 hn k; omega
  rw [State.nextPc, if_pos (Option.isSome_iff_ne_none.2 hf)]

theorem State.complete_waitKey_stalled (x : Reg) (h : ∀ k, s.key k = 0) : s.complete (.waitKey x) = s := by
  simp [State.complete, State.effect, State.nextPc, State.takeKey, s.firstPressed_none.2 h, State.applyNext]

/-- A next-PC behaviour other than a jump moves `pc` by at most 4, so it stays in range after a fetch. -/
theorem State.applyNext_pc_le (n : NextPc) (hp : s.pc.toNat ≤ 0xFFE) (hj : ∀ a, n = .jump a → a.toNat ≤ 0x10FE) :
    (s.applyNext n).pc.toNat ≤ 0x10FE := by
  cases n with
  | advance => rw [State.applyNext_pc_advance]; bv_omega
  | skip => rw [State.applyNext_pc_skip]; bv_omega
  | jump a => exact hj a rfl
  | stall => rw [State.applyNext_pc_stall]; omega

theorem skipIf_ne_jump (c : Bool) (a : Word) : skipIf c ≠ .jump a := by
  cases c <;> simp [skipIf]

/-- The target of a jump is in the range of 10_state.md R27, if the top of the stack holds an address that was fetched. -/
theorem State.nextPc_jump_le (i : Instr) (a : Word) (htop : ∀ r, s.topOfStack = some r → r.toNat ≤ 0xFFE)
    (h : s.nextPc i = .jump a) : a.toNat ≤ 0x10FE := by
  cases i
  case jump nnn | call nnn =>
    have hn := nnn.isLt
    obtain rfl : zext12 nnn = a := NextPc.jump.inj h
    rw [zext12_toNat]
    omega
  case jumpV0 nnn =>
    have hn := nnn.isLt
    have hv := (s.getV 0x0).isLt
    obtain rfl : zext12 nnn + zext8 (s.getV 0x0) = a := NextPc.jump.inj h
    rw [BitVec.toNat_add, zext12_toNat, zext8_toNat]
    omega
  case ret =>
    obtain rfl : s.topOfStack.getD 0 + 2 = a := NextPc.jump.inj h
    cases ht : s.topOfStack with
    | none => decide
    | some r =>
      have hr := htop r ht
      simp only [Option.getD_some]
      bv_omega
  case waitKey x =>
    rw [State.nextPc] at h
    split_ifs at h
  all_goals simp_all [State.nextPc, skipIf_ne_jump]

end Next

end Sys2Proof.Machine
end

section
/-!
The obligations on the state (10_state.md): reset, the invariant, and which instructions write which part of the state.
-/

namespace Sys2Proof.Machine

/-! ### The invariant -/

section Invariant
variable {s t : State}

theorem timerDiv_pos : 0 < Sys2Proof.Config.timerDiv := Nat.succ_pos _

/-- A machine with the memory and control state of the launch has the invariant, whatever is loaded. -/
theorem State.Inv.of_launch (hm : Memory.wf t.mem = true) (hpc : t.pc = 0x0200) (hsp : t.sp = 0) (ht : t.tdiv = 0)
    (hh : t.halted = false) (hc : t.faultCause = .none) (hp : t.faultPc = 0x0000) (hw : t.faultWord = 0x0000) :
    t.Inv where
  memWf := hm
  pcBound := by rw [hpc]; decide
  slots k hk hlt := by simp [hsp] at hlt
  tdivBound := ht ▸ timerDiv_pos
  noRecord _ := ⟨hc, hp, hw⟩
  record h := by simp [hh] at h

/-- Raising writes the record the invariant asks for. -/
theorem State.Inv.raiseFatal (h : s.Inv) {c : FaultCause} {w : Word} (hc : c ≠ .none)
    (hw : c = .fetchOutOfRange ∨ c = .timingLost → w = 0x0000) : (s.raiseFatal c w).Inv where
  memWf := h.memWf
  pcBound := h.pcBound
  slots := h.slots
  tdivBound := h.tdivBound
  noRecord hr := by simp at hr
  record _ := ⟨hc, rfl, hw, by simp⟩

/-- The timer logic keeps the prescaler below `TIMER_DIV`. -/
theorem State.Inv.timerTick (h : s.Inv) : (s.timerTick Sys2Proof.Config.timerDiv).Inv :=
  { h with
    tdivBound := by
      have hlt := h.tdivBound
      have hpos := timerDiv_pos
      rw [State.timerTick_tdiv]
      split_ifs with hd
      · exact hpos
      · rw [State.timersDue_iff] at hd
        omega }

theorem State.Inv.endCycle (h : s.Inv) : (endCycle s).Inv := by
  unfold Machine.endCycle
  split_ifs
  · exact h
  · exact h.timerTick

/-- Logging an unrecognised opcode keeps the invariant of a running machine. -/
theorem State.Inv.skipUnrecognised (h : s.Inv) (hh : s.halted = false) (hp : s.pc.toNat ≤ 0xFFE) (w : Word) :
    (s.skipUnrecognised w).Inv :=
  { h with
    pcBound := State.applyNext_pc_le _ .advance hp nofun
    record := fun hr => by simp [State.skipUnrecognised, hh] at hr }

/-- The slot a return reads holds an address that was fetched. -/
theorem State.Inv.topOfStack_le (h : s.Inv) (r : Word) (hr : s.topOfStack = some r) : r.toNat ≤ 0xFFE := by
  have hlt := s.sp.isLt
  by_cases hz : s.sp.val = 0
  · rw [s.topOfStack_eq_none.2 hz] at hr
    cases hr
  · rw [s.topOfStack_of_pos (Nat.pos_of_ne_zero hz)] at hr
    exact Option.some.inj hr ▸ h.slots (s.sp.val - 1) (by omega) (by omega)

/-- A push of a fetched address keeps every slot in use an address that was fetched. -/
theorem State.Inv.push_slots (h : s.Inv) (a : Word) (ha : a.toNat ≤ 0xFFE) (k : Nat) (hk : k < 16)
    (hlt : k < (s.push a).sp.val) : (s.push a).stack[k].toNat ≤ 0xFFE := by
  by_cases hsp : s.sp.val < 16
  · obtain ⟨hs, hst⟩ := s.push_of_lt a hsp
    rw [hst k hk]
    split_ifs with he
    · exact ha
    · exact h.slots k hk (by omega)
  · rw [State.push, dif_neg hsp] at hlt ⊢
    exact h.slots k hk hlt

/-- The effect of an instruction that was fetched keeps every slot in use an address that was fetched. -/
theorem State.Inv.effect_slots (h : s.Inv) (hp : s.pc.toNat ≤ 0xFFE) (i : Instr) (k : Nat) (hk : k < 16)
    (hlt : k < (s.effect i).sp.val) : (s.effect i).stack[k].toNat ≤ 0xFFE := by
  by_cases hi : touchesStack i
  · obtain rfl | ⟨nnn, rfl⟩ := hi
    · exact h.slots k hk (by simp only [State.effect, State.dropTop_sp] at hlt; omega)
    · exact h.push_slots s.pc hp k hk hlt
  · rw [s.effect_sp hi] at hlt
    simp only [s.effect_stack fun nnn e => hi (.inr ⟨nnn, e⟩)]
    exact h.slots k hk hlt

/-- An instruction executed by a running machine at an address it fetches from keeps the invariant. -/
theorem State.Inv.exec (h : s.Inv) (hh : s.halted = false) (hp : s.pc.toNat ≤ 0xFFE) {i : Instr}
    (he : Machine.exec i s = .next t) : t.Inv := by
  rcases exec_cases he with ⟨c, -, hc, hf, hl, rfl⟩ | ⟨-, rfl, hs⟩
  · exact h.raiseFatal hc fun hc' => absurd hc' (not_or.2 ⟨hf, hl⟩)
  · exact {
      memWf := by rw [State.complete, State.applyNext_mem]; exact s.effect_mem_wf i h.memWf
      pcBound := State.applyNext_pc_le _ _ (by rwa [s.effect_pc i]) fun a ha => s.nextPc_jump_le i a h.topOfStack_le ha
      slots := fun k hk hlt => by
        simp only [State.complete, State.applyNext_sp, State.applyNext_stack] at hlt ⊢
        exact h.effect_slots hp i k hk hlt
      tdivBound := hs.tdiv ▸ h.tdivBound
      noRecord := fun _ => by
        rw [hs.faultCause, hs.faultPc, hs.faultWord]
        exact h.noRecord hh
      record := fun hr => by simp [hs.halted, hh] at hr }

/-- Every shape of a step keeps the invariant. -/
theorem StepShape.inv {a : AgentStep} {u t : State} (h : StepShape a u t) (hu : u.Inv) : t.Inv := by
  have hpoll : State.Inv { u with tickPending := false } := { hu with }
  cases h with
  | idlePoll _ ht => exact ht ▸ hu
  | fetchFault _ _ _ ht => exact ht ▸ hpoll.raiseFatal (by decide) fun _ => rfl
  | timingLost _ _ _ _ ht => exact ht ▸ hu.raiseFatal (by decide) fun _ => rfl
  | unrecognised _ hh hp _ ht => exact ht ▸ (hpoll.skipUnrecognised hh hp _).endCycle
  | executed _ hh hp i _ v he ht => exact ht ▸ (hpoll.exec hh hp he).endCycle
  | tick _ ht => exact ht ▸ { hu with }
  | disconnect _ ht => exact ht ▸ { hu with }
  | press k _ ht => exact ht ▸ { hu with }
  | drain _ ht => exact ht ▸ { hu with }
  | reset rom _ _ ht =>
    exact ht ▸ State.Inv.of_launch (Memory.wf_writeList _ _ _ rfl) rfl rfl rfl rfl rfl rfl rfl

end Invariant

/-- Settles O21: the launch state meets each clause of the invariant. -/
theorem resetMeetsTheInvariant : Obligations.ResetMeetsTheInvariant :=
  State.Inv.of_launch rfl rfl rfl rfl rfl rfl rfl rfl

/-- Settles O22: taking the turn off the agenda keeps the invariant, and so does each shape of a step. -/
theorem everyStepKeepsTheInvariant : Obligations.EveryStepKeepsTheInvariant := by
  intro s t hs hstep
  have hturn : s.turn.2.Inv := by rw [s.turn_frame]; exact { hs with }
  exact (step_shape s t hstep).inv hturn

/-! ### Reset -/

/-- Settles O19: memory is the ROM over the boot image, whose font table computes to the 80 bytes of the statement, and every
other field is the launch's. -/
theorem resetLeavesTheLaunchState : Obligations.ResetLeavesTheLaunchState := by
  intro s rom rest ha hlen
  refine ⟨_, (step_cons s _ rest ha).trans (if_pos hlen), fun a => ?_, Memory.wf_writeList _ _ _ rfl, rfl, fun r => ?_, rfl, rfl,
    fun k hk => ?_, rfl, rfl, fun k => ?_, fun x y => ?_, rfl, rfl, rfl, rfl, rfl, rfl, rfl, rfl, rfl, rfl, rfl⟩
  · exact Memory.read_writeList rom [] romBase a (by simp only [romBase, memTop]; omega)
  · simp [State.getV, State.reset]
  · simp [State.reset]
  · simp [State.key, State.reset]
  · simp [Display.pixel, State.reset]

/-! ### Which instruction writes what -/

/-- Settles O25: a raise leaves the stack, and an effect leaves `SP` and the slots as `effect_sp`, `effect_stack` and
`effect_slot_ne` say. -/
theorem onlyCallAndRetTouchTheStack : Obligations.OnlyCallAndRetTouchTheStack := by
  intro i s t h
  rcases exec_cases h with ⟨c, -, -, -, -, rfl⟩ | ⟨-, rfl, -⟩
  · exact ⟨fun _ => rfl, fun _ => rfl, fun _ _ _ => rfl⟩
  · simp only [State.complete, State.applyNext_sp, State.applyNext_stack]
    exact ⟨s.effect_sp, s.effect_stack, fun k hk hne => s.effect_slot_ne i k hk hne⟩

/-- Settles O26: a raise leaves the key counters, and an effect lowers at most one of them. -/
theorem onlyKeyInstructionsConsumePresses : Obligations.OnlyKeyInstructionsConsumePresses := by
  intro i s t h
  rcases exec_cases h with ⟨c, -, -, -, -, rfl⟩ | ⟨-, rfl, -⟩
  · exact ⟨fun _ => rfl, .inl rfl⟩
  · simp only [State.complete, State.applyNext_keys, State.applyNext_key]
    exact ⟨s.effect_keys, s.effect_keys_or_lowers_one i⟩

/-- Settles O27: a raise leaves the registers; an effect writes only what `mayWrite` allows, and a flag into `VF`. -/
theorem onlyDestinationRegistersChange : Obligations.OnlyDestinationRegistersChange := by
  intro i s t hh h
  rcases exec_cases h with ⟨c, -, -, -, -, rfl⟩ | ⟨-, rfl, -⟩
  · exact ⟨fun _ _ => rfl, fun _ hr => by simp at hr⟩
  · simp only [State.complete, State.applyNext_getV]
    refine ⟨s.effect_getV, fun hf _ => ?_⟩
    obtain ⟨c, hc⟩ := s.effect_vf hf
    exact hc ▸ flagByte_eq_zero_or_one c

/-- Settles O29: a raise leaves these fields; so does an effect that is no writer of them, and the control state stays. -/
theorem specialRegistersHaveTheirWriters : Obligations.SpecialRegistersHaveTheirWriters := by
  intro i s t h
  rcases exec_cases h with ⟨c, -, -, -, -, rfl⟩ | ⟨-, rfl, hs⟩
  · exact ⟨fun _ => rfl, fun _ => rfl, fun _ => rfl, fun _ => rfl, rfl, rfl, rfl, rfl⟩
  · refine ⟨?_, ?_, ?_, ?_, hs.tickPending, hs.tickLost, hs.tdiv, hs.agenda⟩
    all_goals simp only [State.complete, State.applyNext_i, State.applyNext_dt, State.applyNext_st, State.applyNext_rndDraws]
    · exact s.effect_i
    · exact s.effect_dt
    · exact s.effect_st
    · exact s.effect_rndDraws

/-- Settles O30: a raise leaves `pc`, and a completion moves it by its next-PC behaviour. -/
theorem pcAdvanceAccounting : Obligations.PcAdvanceAccounting := by
  intro i s t hh h
  rcases exec_cases h with ⟨c, hf, -, -, -, rfl⟩ | ⟨-, rfl, hs⟩
  · refine ⟨fun _ => rfl, fun hr => ?_, fun hr => ?_, fun x hx => ?_, fun x hx => ?_⟩
    · simp at hr
    · simp at hr
    · simp [hx, fatalCondition] at hf
    · simp [hx, fatalCondition] at hf
  · refine ⟨fun hr => ?_, fun _ hj hk hw => ?_, fun _ hk => ?_, fun x hx hp => ?_, fun x hx hn => ?_⟩
    · simp [hs.halted, hh] at hr
    · exact s.complete_pc_of_advance (s.nextPc_of_plain hj hk hw)
    · exact (s.nextPc_of_skip hk).imp s.complete_pc_of_advance s.complete_pc_of_skip
    · exact s.complete_pc_of_advance (hx ▸ s.nextPc_waitKey_pressed x hp)
    · exact hx ▸ s.complete_waitKey_stalled x hn

end Sys2Proof.Machine
end

section
/-!
The obligations on memory (20_memory.md): the fetch of a placed word, the fetch check, and which instruction writes which byte.
-/

namespace Sys2Proof.Machine

/-! ### The fetch -/

/-- A 16-bit number is the value of its table word. -/
theorem tableWord_toNat {w : Nat} (h : w < 0x10000) : (tableWord 16 w).toNat = w := by
  rw [tableWord, BitVec.toNat_ofNat]
  omega

@[simp] theorem State.placeWord_pc (s : State) (w : Word) : (s.placeWord w).pc = s.pc := rfl

/-- Placing a word that fits puts its two bytes at `pc`, high byte first (20_memory.md R52), and leaves the others. -/
theorem State.placeWord_readMem (s : State) (w : Word) (hp : s.pc.toNat ≤ 0xFFE) (a : Nat) :
    (s.placeWord w).readMem a =
      if a = s.pc.toNat then (bytesOfWord w).1
      else if a = s.pc.toNat + 1 then (bytesOfWord w).2
      else s.readMem a := by
  have hstore : (s.placeWord w).readMem a = _ :=
    s.storeBytes_readMem s.pc.toNat [(bytesOfWord w).1, (bytesOfWord w).2] a
      (by simp only [List.length_cons, List.length_nil, memTop]; omega)
  simp only [List.length_cons, List.length_nil] at hstore
  rw [hstore]
  by_cases h0 : a = s.pc.toNat
  · simp [h0]
  · by_cases h1 : a = s.pc.toNat + 1
    · simp [h1]
    · rw [if_neg (by omega), if_neg h0, if_neg h1]

/-- A word placed where it fits is the word the fetch reads. -/
theorem State.placeWord_fetchedWord (s : State) (w : Word) (hp : s.pc.toNat ≤ 0xFFE) :
    (s.placeWord w).fetchedWord = w := by
  rw [State.fetchedWord, State.placeWord_pc, s.placeWord_readMem w hp, s.placeWord_readMem w hp, if_pos rfl,
    if_neg (Nat.succ_ne_self _), if_pos rfl, wordOfBytes_bytesOfWord]

/-- Settles O6: the pending tick gives the CORE the turn, the fetch reads the word back, and only its two bytes are stored. -/
theorem placedWordIsFetchedNext : Obligations.PlacedWordIsFetchedNext := by
  intro s w hw hp
  refine ⟨⟨.inr ⟨rfl, rfl, .inl rfl⟩, rfl, rfl⟩, ?_, fun a ha ha' => ?_, rfl⟩
  · rw [State.withFetchWord, s.placeWord_fetchedWord _ hp, tableWord_toNat hw]
  · rw [State.withFetchWord, s.placeWord_readMem _ hp, if_neg ha, if_neg ha']

/-- Settles O9: the step is the cycle of the turn, and that cycle's fetch check raises. -/
theorem fetchOutsideMemoryIsFatal : Obligations.FetchOutsideMemoryIsFatal := by
  intro s rest h hp
  exact ⟨_, (step_of_cycleTurn s rest h).trans (cycle_fetch_fault (s.atCycle rest) hp), rfl⟩

/-! ### Who writes memory -/

/-- The effect of `Bcd` leaves every byte outside `I .. I+2` (20_memory.md R55). -/
theorem State.effect_bcd_readMem_outside (s : State) (x : Reg) (a : Nat) (ha : a < s.i.toNat ∨ s.i.toNat + 2 < a) :
    (s.effect (.bcd x)).readMem a = s.readMem a := by
  refine s.storeBytes_readMem_outside _ _ a ?_
  simp only [State.dataAddr, bcdDigits_length]
  omega

/-- The effect of `Store` leaves every byte outside `I .. I+x` (20_memory.md R55). -/
theorem State.effect_store_readMem_outside (s : State) (x : Reg) (a : Nat)
    (ha : a < s.i.toNat ∨ s.i.toNat + x.toNat < a) : (s.effect (.store x)).readMem a = s.readMem a := by
  refine s.storeBytes_readMem_outside _ _ a ?_
  simp only [State.dataAddr, State.regBlock_length]
  omega

/-- Settles O28: a raise leaves memory, and an effect stores nothing but the bytes of `Bcd` and `Store`. -/
theorem onlyBcdAndStoreWriteMemory : Obligations.OnlyBcdAndStoreWriteMemory := by
  intro i s t h
  rcases exec_cases h with ⟨c, -, -, -, -, rfl⟩ | ⟨-, rfl, -⟩
  · exact ⟨fun _ => rfl, fun _ _ _ _ => rfl, fun _ _ _ _ => rfl⟩
  · simp only [State.complete, State.applyNext_mem, State.applyNext_readMem]
    refine ⟨s.effect_mem, fun x hx a ha => ?_, fun x hx a ha => ?_⟩
    · exact hx ▸ s.effect_bcd_readMem_outside x a ha
    · exact hx ▸ s.effect_store_readMem_outside x a ha

end Sys2Proof.Machine
end

section
/-!
The obligations on the encoding (30_encoding.md): the decoder inverts the encoder on the well-formed instructions, what it answers
is spelled by the fields of the word, and the words it leaves are those of R82, R83 and R84.
-/

namespace Sys2Proof

/-! ### The words of instructions -/

/-- The word of a well-formed instruction decodes to it; the two literal words are taken before `Sys` (R74). -/
theorem decode_encode (i : Instr) (h : i.wellFormed = true) : decode (encode i) = some i := by
  cases i
  case clear | ret => rfl
  case sys nnn =>
    obtain ⟨h0, h1⟩ : nnn ≠ 0x0E0 ∧ nnn ≠ 0x0EE := by simpa [Instr.wellFormed] using h
    have hdecode := decode_of_group_zero (wordNNN 0x0 nnn) (by simp) (by simpa using h0) (by simpa using h1)
    exact hdecode.trans (by rw [fieldNNN_wordNNN])
  case jump | call | loadI | jumpV0 => simp [encode, decode_wordNNN, decodeGroup]
  case skipEqByte | skipNeByte | loadByte | addByte | random => simp [encode, decode_wordXKK, decodeGroup]
  case skipEqReg | skipNeReg | draw => simp [encode, decode_wordXYN, decodeGroup]
  case move | or | and | xor | add | subXY | shiftRight | subYX | shiftLeft =>
    simp [encode, decode_wordXYN, decodeGroup, decodeGroup8]
  case skipOnKeyPressed | skipOnKeyNotPressed => simp [encode, decode_wordXKK, decodeGroup, decodeGroupE]
  case readDelay | waitKey | setDelay | setSound | addI | loadFont | bcd | store | load =>
    simp [encode, decode_wordXKK, decodeGroup, decodeGroupF]

/-- Only a well-formed instruction's word decodes to it. -/
theorem wellFormed_of_decode_encode {i : Instr} (h : decode (encode i) = some i) : i.wellFormed = true := by
  cases i
  case sys nnn =>
    rw [Instr.wellFormed, Bool.and_eq_true, bne_iff_ne, bne_iff_ne]
    constructor <;> (rintro rfl; revert h; decide)
  all_goals rfl

/-- The operands of an instruction are the fields of its own word (R71). -/
theorem fieldsOf_encode (i : Instr) : Machine.FieldsOf (encode i) i := by
  cases i <;>
    simp [Machine.FieldsOf, encode, ← fieldX_toNat, ← fieldY_toNat, ← fieldN_toNat, ← fieldKK_toNat, ← fieldNNN_toNat]

/-- Clearing the low nibble of a word keeps its other three. -/
theorem and_0xFFF0 (w : Word) : w &&& 0xFFF0 = wordXYN (fieldGroup w) (fieldX w) (fieldY w) 0x0 := by
  have hmask : (0xFFF0 : Word) = wordXYN (BitVec.allOnes 4) (BitVec.allOnes 4) (BitVec.allOnes 4) 0#4 := by decide
  calc w &&& 0xFFF0
    _ = wordXYN (fieldGroup w) (fieldX w) (fieldY w) (fieldN w) &&& 0xFFF0 := by rw [wordXYN_fields]
    _ = wordXYN (fieldGroup w) (fieldX w) (fieldY w) 0x0 := by
      rw [hmask, wordXYN_and, BitVec.and_allOnes, BitVec.and_allOnes, BitVec.and_allOnes, BitVec.and_zero]
      rfl

/-! ### What the decoder answers -/

theorem fieldGroup_eq_iff (w : Word) (g : Nibble) : fieldGroup w = g ↔ w.toNat / 0x1000 = g.toNat := by
  rw [← BitVec.toNat_inj, fieldGroup_toNat]

theorem encode_of_decodeGroup8 {x y : Reg} {n : Nibble} {i : Instr} (h : decodeGroup8 x y n = some i) :
    encode i = wordXYN 0x8 x y n := by
  unfold decodeGroup8 at h
  split at h <;> cases h <;> rfl

theorem encode_of_decodeGroupE {x : Reg} {kk : Byte} {i : Instr} (h : decodeGroupE x kk = some i) :
    encode i = wordXKK 0xE x kk := by
  unfold decodeGroupE at h
  split at h <;> cases h <;> rfl

theorem encode_of_decodeGroupF {x : Reg} {kk : Byte} {i : Instr} (h : decodeGroupF x kk = some i) :
    encode i = wordXKK 0xF x kk := by
  unfold decodeGroupF at h
  split at h <;> cases h <;> rfl

/-- A word that its group decodes is spelled by its instruction, or is one of the two register skips, which leave the low nibble
(R85). -/
theorem decodeGroup_some_cases {g : Nibble} {w : Word} {i : Instr} (hg : fieldGroup w = g) (h : decodeGroup g w = some i) :
    (g ≠ 0x5 ∧ g ≠ 0x9 ∧ encode i = w) ∨
    (g = 0x5 ∧ i = .skipEqReg (fieldX w) (fieldY w)) ∨ (g = 0x9 ∧ i = .skipNeReg (fieldX w) (fieldY w)) := by
  have hNNN : wordNNN g (fieldNNN w) = w := hg ▸ wordNNN_fields w
  have hXKK : wordXKK g (fieldX w) (fieldKK w) = w := hg ▸ wordXKK_fields w
  have hXYN : wordXYN g (fieldX w) (fieldY w) (fieldN w) = w := hg ▸ wordXYN_fields w
  unfold decodeGroup at h
  split at h
  case h_1 | h_2 | h_3 | h_11 | h_12 => cases h; exact .inl ⟨by decide, by decide, hNNN⟩
  case h_4 | h_5 | h_7 | h_8 | h_13 => cases h; exact .inl ⟨by decide, by decide, hXKK⟩
  case h_6 => cases h; exact .inr (.inl ⟨rfl, rfl⟩)
  case h_10 => cases h; exact .inr (.inr ⟨rfl, rfl⟩)
  case h_9 => exact .inl ⟨by decide, by decide, (encode_of_decodeGroup8 h).trans hXYN⟩
  case h_14 => cases h; exact .inl ⟨by decide, by decide, hXYN⟩
  case h_15 => exact .inl ⟨by decide, by decide, (encode_of_decodeGroupE h).trans hXKK⟩
  case h_16 =>
    obtain rfl : g = 0xF := by simp only [imp_false] at *; bv_omega
    exact .inl ⟨by decide, by decide, (encode_of_decodeGroupF h).trans hXKK⟩

/-- The same of `decode`: the two literal words are those of `Clear` and `Ret`. -/
theorem decode_some_cases {w : Word} {i : Instr} (h : decode w = some i) :
    (fieldGroup w ≠ 0x5 ∧ fieldGroup w ≠ 0x9 ∧ encode i = w) ∨
    (fieldGroup w = 0x5 ∧ i = .skipEqReg (fieldX w) (fieldY w)) ∨
    (fieldGroup w = 0x9 ∧ i = .skipNeReg (fieldX w) (fieldY w)) := by
  unfold decode at h
  split_ifs at h with h0 h1
  · cases h; subst h0; decide
  · cases h; subst h1; decide
  · exact decodeGroup_some_cases rfl h

/-! ### What the decoder leaves -/

theorem decodeGroup8_eq_none (x y : Reg) (n : Nibble) :
    decodeGroup8 x y n = none ↔ n.toNat ∈ [0x8, 0x9, 0xA, 0xB, 0xC, 0xD, 0xF] := by
  unfold decodeGroup8
  split
  case h_10 =>
    simp only [imp_false, true_iff, List.mem_cons] at *
    bv_omega
  all_goals simp

theorem decodeGroupE_eq_none (x : Reg) (kk : Byte) : decodeGroupE x kk = none ↔ kk.toNat ∉ [0x9E, 0xA1] := by
  unfold decodeGroupE
  split
  case h_3 => simp_all [← BitVec.toNat_inj]
  all_goals simp

theorem decodeGroupF_eq_none (x : Reg) (kk : Byte) :
    decodeGroupF x kk = none ↔ kk.toNat ∉ [0x07, 0x0A, 0x15, 0x18, 0x1E, 0x29, 0x33, 0x55, 0x65] := by
  unfold decodeGroupF
  split
  case h_10 => simp_all [← BitVec.toNat_inj]
  all_goals simp

/-- Only the three groups with a discriminant leave words (R82, R83, R84). -/
theorem decodeGroup_eq_none (g : Nibble) (w : Word) :
    decodeGroup g w = none ↔
      (g = 0x8 ∧ decodeGroup8 (fieldX w) (fieldY w) (fieldN w) = none) ∨
      (g = 0xE ∧ decodeGroupE (fieldX w) (fieldKK w) = none) ∨ (g = 0xF ∧ decodeGroupF (fieldX w) (fieldKK w) = none) := by
  unfold decodeGroup
  split
  case h_16 =>
    obtain rfl : g = 0xF := by simp only [imp_false] at *; bv_omega
    simp
  all_goals simp

/-- The two literal words are of group 0x0, so their group leaves them neither. -/
theorem decode_eq_none (w : Word) : decode w = none ↔ decodeGroup (fieldGroup w) w = none := by
  unfold decode
  split_ifs with h0 h1
  · subst h0; decide
  · subst h1; decide
  · rfl

end Sys2Proof

namespace Sys2Proof.Machine

/-- Settles O2: the encoder's word decodes to the instruction, and its two bytes are read back as that word. -/
theorem decodeOfEncodeIsIdentity : Obligations.DecodeOfEncodeIsIdentity := by
  intro i hi
  have hd := decode_encode i hi
  exact ⟨hd, fun rest => by rw [decodeBytes_word, hd]⟩

/-- Settles O3: a word that decodes is its instruction's word, or one of a register skip, whose word has the low nibble 0. -/
theorem decodedOperandsAreTheFields : Obligations.DecodedOperandsAreTheFields := by
  intro w i h
  have h5 := fieldGroup_eq_iff w 0x5
  have h9 := fieldGroup_eq_iff w 0x9
  rcases decode_some_cases h with ⟨hn5, hn9, rfl⟩ | ⟨hg, rfl⟩ | ⟨hg, rfl⟩
  · exact ⟨fieldsOf_encode i, wellFormed_of_decode_encode h, (if_neg (not_or.2 ⟨mt h5.2 hn5, mt h9.2 hn9⟩)).symm⟩
  · rw [if_pos (.inl (h5.1 hg)), and_0xFFF0, hg]
    exact ⟨⟨fieldX_toNat w, fieldY_toNat w⟩, rfl, rfl⟩
  · rw [if_pos (.inr (h9.1 hg)), and_0xFFF0, hg]
    exact ⟨⟨fieldX_toNat w, fieldY_toNat w⟩, rfl, rfl⟩

/-- Settles O4: the literal words aside, the group decides, and three groups leave words. -/
theorem unrecognisedWordsAreExactlyThese : Obligations.UnrecognisedWordsAreExactlyThese := by
  refine ⟨fun w => ?_, fun w hg h0 h1 => ⟨fieldNNN w, ?_⟩⟩
  · rw [decode_eq_none, decodeGroup_eq_none, decodeGroup8_eq_none, decodeGroupE_eq_none, decodeGroupF_eq_none,
      fieldGroup_eq_iff, fieldGroup_eq_iff, fieldGroup_eq_iff, fieldN_toNat, fieldKK_toNat]
    rfl
  · rw [decode, if_neg h0, if_neg h1, (fieldGroup_eq_iff w 0x0).2 hg]
    rfl

/-- Settles O8: the step is a cycle that skips the word, and the machine still runs, so the timer logic does too. -/
theorem unrecognisedOpcodeIsLoggedAndSkipped : Obligations.UnrecognisedOpcodeIsLoggedAndSkipped := by
  intro s rest h hp hd
  have ⟨_, hh, _⟩ := h
  have hcycle := cycle_unrecognised (s.atCycle rest) hp hd
  have hend := endCycle_running ((s.atCycle rest).skipUnrecognised s.fetchedWord) hh
  exact ⟨_, (step_of_cycleTurn s rest h).trans (hcycle.trans (congrArg _ hend)), rfl, rfl⟩

/-- Settles O1: thirteen evaluations of the decoder. -/
theorem specWordsDecode : Obligations.SpecWordsDecode := by
  unfold Obligations.SpecWordsDecode
  decide

end Sys2Proof.Machine
end

section
/-!
The obligations on control flow (40_flow.md): the jumps, the call stack, the register skips, and the cycle of an idle loop.
-/

namespace Sys2Proof.Machine

/-! ### The answer of an execution, and its frame -/

section Answer
variable {i : Instr} {s : State}

theorem exec_of_fatal {c : FaultCause} (h : fatalCondition s i = some c) :
    exec i s = .next (s.raiseFatal c s.fetchedWord) := by
  rw [exec_eq, h]
  rfl

theorem exec_of_not_fatal (h : fatalCondition s i = none) : exec i s = .next (s.complete i) := by
  rw [exec_eq, h]
  rfl

/-- A next-PC behaviour writes `pc` and nothing else. -/
theorem State.applyNext_frame (s : State) (n : NextPc) : s.applyNext n = { s with pc := (s.applyNext n).pc } := by
  cases n <;> rfl

/-- A jump to where `pc` already is changes nothing. -/
theorem State.applyNext_jump_self (s : State) : s.applyNext (.jump s.pc) = s := rfl

theorem State.applyNext_skipIf_pc (s : State) (c : Bool) :
    (s.applyNext (skipIf c)).pc = if c then s.pc + 4 else s.pc + 2 := by
  cases c <;> rfl

/-- The next-PC behaviour writes no more than `pc` over the effect. -/
theorem State.complete_frame (s : State) (i : Instr) : s.complete i = { s.effect i with pc := (s.complete i).pc } :=
  (s.effect i).applyNext_frame _

/-- An instruction that meets no fatal condition and has no effect of its own moves `pc` by its next-PC behaviour and changes
nothing else. -/
theorem exec_moves_only_pc (hf : fatalCondition s i = none) (he : s.effect i = s) :
    ∃ t, exec i s = .next t ∧ t.pc = (s.applyNext (s.nextPc i)).pc ∧ t = { s with pc := t.pc } ∧
      ∀ a, t.readMem a = s.readMem a := by
  refine ⟨s.applyNext (s.nextPc i), ?_, rfl, s.applyNext_frame _, s.applyNext_readMem _⟩
  rw [exec_of_not_fatal hf, State.complete, he]

/-- A register skip on the test `c` adds 4 to `pc` where `p` gives the test, 2 where `q` denies it, and changes nothing else
(R107 to R110). -/
theorem exec_register_skip {c : Bool} {p q : Prop} (hf : fatalCondition s i = none) (he : s.effect i = s)
    (hn : s.nextPc i = skipIf c) (hp : p → c = true) (hq : q → c = false) :
    ∃ t, exec i s = .next t ∧ t = { s with pc := t.pc } ∧ (∀ a, t.readMem a = s.readMem a) ∧
      (p → t.pc = s.pc + 4) ∧ (q → t.pc = s.pc + 2) := by
  obtain ⟨t, hexec, hpc, hframe, hmem⟩ := exec_moves_only_pc hf he
  rw [hn, State.applyNext_skipIf_pc] at hpc
  exact ⟨t, hexec, hframe, hmem, fun h => hpc.trans (if_pos (hp h)), fun h => hpc.trans (if_neg (by simp [hq h]))⟩

end Answer

/-! ### Jumps and the no-operation -/

/-- Settles O35: a jump has no effect of its own, and its target is `nnn`. -/
theorem jumpSetsPcAbsolutely : Obligations.JumpSetsPcAbsolutely := by
  intro nnn s
  obtain ⟨t, hexec, hpc, hframe, hmem⟩ := exec_moves_only_pc (i := .jump nnn) (s := s) rfl rfl
  exact ⟨t, hexec, hpc ▸ zext12_toNat nnn, hframe, hmem⟩

/-- The target of `JumpV0` fits 16 bits, so it is not reduced (R105). -/
theorem zext12_add_zext8_toNat (nnn : Addr12) (b : Byte) : (zext12 nnn + zext8 b).toNat = nnn.toNat + b.toNat := by
  have hn := nnn.isLt
  have hb := b.isLt
  rw [BitVec.toNat_add, zext12_toNat, zext8_toNat]
  omega

/-- Settles O36: the target is a sum that does not wrap. -/
theorem jumpV0AddsV0 : Obligations.JumpV0AddsV0 := by
  intro nnn s
  obtain ⟨t, hexec, hpc, hframe, hmem⟩ := exec_moves_only_pc (i := .jumpV0 nnn) (s := s) rfl rfl
  exact ⟨t, hexec, hpc ▸ zext12_add_zext8_toNat nnn _, hframe, hmem⟩

/-- Settles O37: `Sys` has no effect of its own and advances, so the diagnostic stream stays too. -/
theorem sysOnlyAdvances : Obligations.SysOnlyAdvances := by
  intro nnn s
  obtain ⟨t, hexec, hpc, hframe, hmem⟩ := exec_moves_only_pc (i := .sys nnn) (s := s) rfl rfl
  exact ⟨t, hexec, hpc, hframe, by rw [hframe], hmem⟩

/-! ### Skips -/

/-- Settles O40: the two tests are the equality of the register with the byte and its negation. -/
theorem byteSkipsTestTheirRegister : Obligations.ByteSkipsTestTheirRegister := by
  intro x kk s
  constructor
  · exact exec_register_skip rfl rfl rfl beq_iff_eq.2 beq_eq_false_iff_ne.2
  · exact exec_register_skip rfl rfl rfl bne_iff_ne.2 bne_eq_false_iff_eq.2

/-- Settles O41: the two tests are the equality of the registers and its negation. -/
theorem registerSkipsCompareTheirRegisters : Obligations.RegisterSkipsCompareTheirRegisters := by
  intro x y s
  constructor
  · exact exec_register_skip rfl rfl rfl beq_iff_eq.2 beq_eq_false_iff_ne.2
  · exact exec_register_skip rfl rfl rfl bne_iff_ne.2 bne_eq_false_iff_eq.2

/-! ### The call stack -/

/-- A push writes `SP` and the stack and nothing else. -/
theorem State.push_frame (s : State) (a : Word) :
    s.push a = { s with sp := (s.push a).sp, stack := (s.push a).stack } := by
  unfold State.push
  split <;> rfl

theorem State.complete_call_frame (s : State) (nnn : Addr12) :
    s.complete (.call nnn) =
      { s with pc := zext12 nnn, sp := (s.push s.pc).sp, stack := (s.push s.pc).stack } := by
  rw [State.complete_frame, State.effect, s.push_frame s.pc]
  rfl

/-- A return past a stack in use goes to the top slot plus 2 (R103). -/
theorem State.complete_ret_pc (s : State) (h : 0 < s.sp.val) (hk : s.sp.val - 1 < 16) :
    (s.complete .ret).pc = s.stack[s.sp.val - 1] + 2 := by
  have hpc : (s.complete .ret).pc = s.topOfStack.getD 0 + 2 := rfl
  rw [hpc, s.topOfStack_of_pos h, Option.getD_some]

/-- Settles O38: with a free slot the call completes, and its effect is the push of `pc`. -/
theorem callPushesItsOwnAddress : Obligations.CallPushesItsOwnAddress := by
  intro nnn s
  refine ⟨fun hfull => exec_of_fatal (if_pos hfull), fun hfree => ?_⟩
  obtain ⟨hsp, hslots⟩ := s.push_of_lt s.pc hfree
  have hexec := (exec_of_not_fatal (i := .call nnn) (if_neg hfree.ne)).trans (congrArg _ (s.complete_call_frame nnn))
  exact ⟨_, hexec, (hslots _ hfree).trans (if_pos rfl), hsp, zext12_toNat nnn,
    fun k hk hne => (hslots k hk).trans (if_neg hne), rfl, fun _ => rfl⟩

/-- Settles O39: on a stack in use the return completes, and its effect drops the top slot. -/
theorem retGoesPastTheCall : Obligations.RetGoesPastTheCall := by
  intro s
  refine ⟨fun hempty => exec_of_fatal (if_pos hempty), fun hpos => ?_⟩
  exact ⟨s.complete .ret, exec_of_not_fatal (if_neg hpos.ne'), s.complete_ret_pc hpos, Nat.sub_add_cancel hpos, rfl,
    fun _ => rfl⟩

/-- Settles O32: the call leaves its own address in the slot that the return then reads (O38, O39). -/
theorem callThenRetReturnsPastTheCall : Obligations.CallThenRetReturnsPastTheCall := by
  intro nnn s hne
  have hfree : s.sp.val < 16 := by omega
  obtain ⟨t, hcall, hslot, htsp, -, -, ht, -⟩ := (callPushesItsOwnAddress nnn s).2 hfree
  obtain ⟨u, hret, hupc, husp, hu, -⟩ := (retGoesPastTheCall t).2 (by omega)
  have hsp : u.sp = s.sp := Fin.ext (by omega)
  have hstack : u.stack = t.stack := by rw [hu]
  have hpc : u.pc = s.pc + 2 := by
    have htop : t.sp.val - 1 = s.sp.val := by omega
    simpa only [htop, hslot] using hupc (by omega)
  refine ⟨t, u, hcall, hret, hpc, hsp, ?_⟩
  calc u = { t with pc := u.pc, sp := s.sp } := hsp ▸ hu
    _ = { s with pc := u.pc, stack := u.stack } := by rw [hstack, ht]

/-! ### The idle loop -/

section Idle
variable {s : State}

/-- Bytes at `pc` that decode to `i` are a fetched word that does. -/
theorem decode_fetchedWord_of_decodeBytes {i : Instr} (h : decodeBytes s.bytesAtPc = .ok (i, [])) :
    decode s.fetchedWord = some i := by
  rw [decodeBytes_bytesAtPc] at h
  split at h
  · next j hj => cases h; exact hj
  · cases h

/-- On a cycle's turn, at an address it fetches from, the step executes what is decoded there (R217). -/
theorem step_of_cycleTurn_decoded {rest : List AgentStep} {i : Instr} (h : s.CycleTurn rest) (hp : s.pc.toNat ≤ 0xFFE)
    (hd : decodeBytes s.bytesAtPc = .ok (i, [])) : step s = afterExec (exec i (s.atCycle rest)) := by
  have hword : decode (s.atCycle rest).fetchedWord = some i := by
    rw [State.atCycle_fetchedWord, decode_fetchedWord_of_decodeBytes hd]
  rw [step_of_cycleTurn s rest h, cycle_exec (s.atCycle rest) i hp hword]

theorem countDown_le (b : Byte) : (countDown b).toNat ≤ b.toNat :=
  (countDown_toNat b).trans_le (Nat.sub_le _ _)

/-- The timer logic writes `TDIV`, `DT` and `ST` and nothing else (R219). -/
theorem State.timerTick_frame (s : State) (d : Nat) :
    s.timerTick d = { s with tdiv := (s.timerTick d).tdiv, dt := (s.timerTick d).dt, st := (s.timerTick d).st } := rfl

theorem State.timerTick_dt_le (s : State) (d : Nat) : (s.timerTick d).dt.toNat ≤ s.dt.toNat := by
  rw [State.timerTick_dt]
  split
  · exact countDown_le s.dt
  · exact le_rfl

theorem State.timerTick_st_le (s : State) (d : Nat) : (s.timerTick d).st.toNat ≤ s.st.toNat := by
  rw [State.timerTick_st]
  split
  · exact countDown_le s.st
  · exact le_rfl

/-- A jump to its own address completes without changing anything (R102). -/
theorem exec_jump_self {nnn : Addr12} (h : s.pc.toNat = nnn.toNat) : exec (.jump nnn) s = .next s := by
  have htarget : zext12 nnn = s.pc := BitVec.eq_of_toNat_eq ((zext12_toNat nnn).trans h.symm)
  calc exec (.jump nnn) s = .next (s.applyNext (.jump (zext12 nnn))) := exec_of_not_fatal rfl
    _ = .next s := by rw [htarget, s.applyNext_jump_self]

end Idle

/-- Settles O31: the jump leaves the state the cycle starts from as it is, so the step is that cycle's timer logic. -/
theorem idleLoopChangesOnlyTimers : Obligations.IdleLoopChangesOnlyTimers := by
  intro s rest nnn hturn hself hp hd
  have ⟨_, hrunning, _⟩ := hturn
  have hexec : exec (.jump nnn) (s.atCycle rest) = .next (s.atCycle rest) := exec_jump_self hself
  refine ⟨(s.atCycle rest).timerTick Config.timerDiv, ?_, State.timerTick_frame _ _, State.timerTick_dt_le _ _,
    State.timerTick_st_le _ _⟩
  rw [step_of_cycleTurn_decoded hturn hp hd, hexec, afterExec, endCycle_running (s.atCycle rest) hrunning]

end Sys2Proof.Machine
end

section
/-!
The obligations on registers, arithmetic and random (41_alu.md): what an instruction that writes one register does, what one that
writes a register and the flag does, and the values each of them writes.
-/

namespace Sys2Proof.Machine

/-! ### Instructions that write one register -/

section OneRegister
variable {i : Instr} {s : State} {x : Reg} {b : Byte}

/-- An instruction that raises nothing, whose effect is to write `b` to `V[x]`, and that advances (R121 to R126). -/
theorem exec_writes_register (hf : fatalCondition s i = none) (he : s.effect i = s.setV x b) (hn : s.nextPc i = .advance) :
    ∃ t, exec i s = .next t ∧ t.getV x = b ∧ t.pc = s.pc + 2 ∧ (∀ q, q ≠ x → t.getV q = s.getV q) ∧
      t = { s with v := t.v, pc := t.pc } ∧ ∀ a, t.readMem a = s.readMem a := by
  refine ⟨(s.setV x b).applyNext .advance, ?_, ?_, rfl, fun q hq => ?_, rfl, fun _ => rfl⟩
  · rw [exec_of_not_fatal hf, State.complete, he, hn]
  · rw [State.applyNext_getV, State.getV_setV_self]
  · rw [State.applyNext_getV, State.getV_setV_ne _ _ _ _ hq]

/-- Such an instruction whose value is, bit by bit, a function `f` of the bits of `V[x]` and `V[y]` (R124 to R126). -/
theorem exec_writes_bitwise {y : Reg} {f : Bool → Bool → Bool} (hf : fatalCondition s i = none)
    (he : s.effect i = s.setV x b) (hn : s.nextPc i = .advance)
    (hbit : ∀ k, b.getLsbD k = f ((s.getV x).getLsbD k) ((s.getV y).getLsbD k)) :
    ∃ t, exec i s = .next t ∧ t.pc = s.pc + 2 ∧
      (∀ k, (t.getV x).getLsbD k = f ((s.getV x).getLsbD k) ((s.getV y).getLsbD k)) ∧
      (∀ q, q ≠ x → t.getV q = s.getV q) ∧ t = { s with v := t.v, pc := t.pc } ∧ ∀ a, t.readMem a = s.readMem a := by
  obtain ⟨t, hexec, hx, hpc, hrest⟩ := exec_writes_register hf he hn
  exact ⟨t, hexec, hpc, fun k => by rw [hx, hbit k], hrest⟩

end OneRegister

/-- Settles O42: each of the three writes one register, and the byte sum is the wrapped one. -/
theorem loadsWriteOneRegister : Obligations.LoadsWriteOneRegister := by
  intro x y kk s
  refine ⟨exec_writes_register rfl rfl rfl, ?_, exec_writes_register rfl rfl rfl⟩
  obtain ⟨t, hexec, hx, hrest⟩ := exec_writes_register (i := .addByte x kk) (s := s) rfl rfl rfl
  exact ⟨t, hexec, by rw [hx, sum8_toNat], hrest⟩

/-- Settles O43: each of the three writes one register, and the word operations act bit by bit. -/
theorem logicIsBitwise : Obligations.LogicIsBitwise := by
  intro x y s
  refine ⟨?_, ?_, ?_⟩
  · exact exec_writes_bitwise rfl rfl rfl fun _ => BitVec.getLsbD_or
  · exact exec_writes_bitwise rfl rfl rfl fun _ => BitVec.getLsbD_and
  · exact exec_writes_bitwise rfl rfl rfl fun _ => BitVec.getLsbD_xor

/-! ### Random -/

/-- The draw is counted, and then `Random` loads the masked value as `LoadByte` would (R132). -/
theorem exec_random_eq_loadByte (x : Reg) (kk : Byte) (s : State) :
    exec (.random x kk) s = exec (.loadByte x (Config.rnd s.rndDraws &&& kk)) s.countDraw := rfl

/-- Settles O47: `Random` is a load into one register after the draw is counted (O42). -/
theorem randomMasksAFreshDraw : Obligations.RandomMasksAFreshDraw := by
  intro x kk s
  obtain ⟨⟨t, hexec, hx, hpc, hothers, hframe, hmem⟩, -⟩ :=
    loadsWriteOneRegister x x (Config.rnd s.rndDraws &&& kk) s.countDraw
  have hcount : t.rndDraws = s.rndDraws + 1 := by rw [hframe, State.countDraw_rndDraws]
  refine ⟨t, (exec_random_eq_loadByte x kk s).trans hexec, hpc, hx, hcount, ?_, fun hfull => ?_, hothers, ?_, hmem⟩
  · rw [hx, BitVec.and_assoc, BitVec.and_not_self]
    exact BitVec.and_zero
  · rw [hx, hfull]
    exact BitVec.and_allOnes
  · rw [hcount]
    exact hframe

/-! ### Instructions that write a register and the flag -/

section RegisterAndFlag
variable {i : Instr} {s : State} {x : Reg} {b : Byte} {c : Bool}

/-- An instruction that raises nothing, whose effect is to write `b` to `V[x]` and then the flag `c`, and that advances (R127 to
R131): the flag stands where `x` is 15 (R120). -/
theorem exec_writes_register_and_flag (hf : fatalCondition s i = none)
    (he : s.effect i = s.setVWithFlag x b (flagByte c)) (hn : s.nextPc i = .advance) :
    ∃ t, exec i s = .next t ∧ t.pc = s.pc + 2 ∧ t.getV 0xF = flagByte c ∧ (x ≠ 0xF → t.getV x = b) ∧
      (∀ q, q ≠ x → q ≠ 0xF → t.getV q = s.getV q) ∧
      t = { s with v := t.v, pc := t.pc } ∧ ∀ a, t.readMem a = s.readMem a := by
  have hread : ∀ q, ((s.setVWithFlag x b (flagByte c)).applyNext .advance).getV q =
      if q = 0xF then flagByte c else if q = x then b else s.getV q := fun q => by
    rw [State.applyNext_getV, State.getV_setVWithFlag, vf]
  refine ⟨(s.setVWithFlag x b (flagByte c)).applyNext .advance, ?_, rfl, ?_, fun hx => ?_, fun q hq hqf => ?_, rfl,
    fun _ => rfl⟩
  · rw [exec_of_not_fatal hf, State.complete, he, hn]
  · rw [hread, if_pos rfl]
  · rw [hread, if_neg hx, if_pos rfl]
  · rw [hread, if_neg hqf, if_neg hq]

end RegisterAndFlag

/-! ### The values and the flags -/

theorem flagByte_carryOf (a b : Byte) : flagByte (carryOf a b) = if 255 < a.toNat + b.toNat then 0x01 else 0x00 := by
  simp only [flagByte, carryOf, decide_eq_true_eq]

theorem flagByte_notBorrow (a b : Byte) : flagByte (notBorrow a b) = if b.toNat ≤ a.toNat then 0x01 else 0x00 := by
  simp only [flagByte, notBorrow, decide_eq_true_eq]

/-- The wrapped difference is the difference of integers modulo 256. -/
theorem diff8_toNat_eq_emod (a b : Byte) : ((diff8 a b).toNat : Int) = (a.toNat - b.toNat : Int) % 256 := by
  have := b.isLt
  rw [diff8_toNat]
  omega

theorem flagByte_toNat (c : Bool) : (flagByte c).toNat = c.toNat := by cases c <;> rfl

theorem shr1_toNat (b : Byte) : (shr1 b).toNat = b.toNat / 2 := by
  rw [shr1, BitVec.toNat_ushiftRight, Nat.shiftRight_eq_div_pow, Nat.pow_one]

theorem shl1_toNat (b : Byte) : (shl1 b).toNat = b.toNat * 2 % 256 := by
  rw [shl1, BitVec.toNat_shiftLeft, Nat.shiftLeft_eq, Nat.pow_one]

theorem lowBit_toNat (b : Byte) : (lowBit b).toNat = b.toNat % 2 := by
  rw [lowBit, BitVec.getLsbD, Nat.toNat_testBit, Nat.pow_zero, Nat.div_one]

theorem highBit_toNat (b : Byte) : (highBit b).toNat = b.toNat / 128 := by
  have := b.isLt
  rw [highBit, BitVec.getLsbD, Nat.toNat_testBit]
  omega

/-- Settles O44: the flag written last is the carry of the two operands. -/
theorem addSetsCarry : Obligations.AddSetsCarry := by
  intro x y s
  obtain ⟨t, hexec, hpc, hflag, hx, hrest⟩ := exec_writes_register_and_flag (i := .add x y) (s := s) rfl rfl rfl
  exact ⟨t, hexec, hpc, hflag.trans (flagByte_carryOf _ _), fun hne => by rw [hx hne, sum8_toNat], hrest⟩

/-- An instruction that writes to `V[x]` the wrapped difference of `a` and `b`, and their not-borrow to `VF` (R128, R130). -/
theorem exec_subtracts {i : Instr} {s : State} {x : Reg} {a b : Byte} (hf : fatalCondition s i = none)
    (he : s.effect i = s.setVWithFlag x (diff8 a b) (flagByte (notBorrow a b))) (hn : s.nextPc i = .advance) :
    ∃ t, exec i s = .next t ∧ t.pc = s.pc + 2 ∧ t.getV 0xF = (if b.toNat ≤ a.toNat then 0x01 else 0x00) ∧
      (x ≠ 0xF → ((t.getV x).toNat : Int) = (a.toNat - b.toNat : Int) % 256) ∧
      (∀ q, q ≠ x → q ≠ 0xF → t.getV q = s.getV q) ∧
      t = { s with v := t.v, pc := t.pc } ∧ ∀ a, t.readMem a = s.readMem a := by
  obtain ⟨t, hexec, hpc, hflag, hx, hrest⟩ := exec_writes_register_and_flag hf he hn
  exact ⟨t, hexec, hpc, hflag.trans (flagByte_notBorrow a b), fun hne => by rw [hx hne, diff8_toNat_eq_emod], hrest⟩

/-- Settles O45: the two differ in which register is the minuend. -/
theorem subtractionsSetNotBorrow : Obligations.SubtractionsSetNotBorrow := by
  intro x y s
  constructor
  · exact exec_subtracts (a := s.getV x) (b := s.getV y) rfl rfl rfl
  · exact exec_subtracts (a := s.getV y) (b := s.getV x) rfl rfl rfl

/-- An instruction that writes `b` to `V[x]` and the bit `c` to `VF`, in numbers (R129, R131). -/
theorem exec_shifts {i : Instr} {s : State} {x : Reg} {b : Byte} {c : Bool} {bit value : Nat}
    (hf : fatalCondition s i = none) (he : s.effect i = s.setVWithFlag x b (flagByte c)) (hn : s.nextPc i = .advance)
    (hc : c.toNat = bit) (hb : b.toNat = value) :
    ∃ t, exec i s = .next t ∧ t.pc = s.pc + 2 ∧ (t.getV 0xF).toNat = bit ∧ (x ≠ 0xF → (t.getV x).toNat = value) ∧
      (∀ q, q ≠ x → q ≠ 0xF → t.getV q = s.getV q) ∧
      t = { s with v := t.v, pc := t.pc } ∧ ∀ a, t.readMem a = s.readMem a := by
  obtain ⟨t, hexec, hpc, hflag, hx, hrest⟩ := exec_writes_register_and_flag hf he hn
  exact ⟨t, hexec, hpc, by rw [hflag, flagByte_toNat, hc], fun hne => by rw [hx hne, hb], hrest⟩

/-- Settles O46: the source of both is `V[y]`, and the bit each drops is bit 0 or bit 7 of it. -/
theorem shiftsReadVy : Obligations.ShiftsReadVy := by
  intro x y s
  constructor
  · exact exec_shifts rfl rfl rfl (lowBit_toNat _) (shr1_toNat _)
  · exact exec_shifts rfl rfl rfl (highBit_toNat _) (shl1_toNat _)

end Sys2Proof.Machine
end

section
/-!
The obligations on the index register and memory (42_index_memory.md): what an instruction that writes `I` alone does, what the
transfers of `Bcd`, `Store` and `Load` write, and the round trip of the last two.
-/

namespace Sys2Proof.Machine

/-! ### Instructions that write the index register -/

/-- An instruction that raises nothing, whose effect is to write the number `value` to `I`, and that advances (R141 to R143). -/
theorem exec_writes_index {i : Instr} {s : State} {a : Word} {value : Nat} (hf : fatalCondition s i = none)
    (he : s.effect i = s.setI a) (hn : s.nextPc i = .advance) (ha : a.toNat = value) :
    ∃ t, exec i s = .next t ∧ t.i.toNat = value ∧ t.pc = s.pc + 2 ∧ t = { s with i := t.i, pc := t.pc } ∧
      ∀ a, t.readMem a = s.readMem a := by
  refine ⟨(s.setI a).applyNext .advance, ?_, ha, rfl, rfl, fun _ => rfl⟩
  rw [exec_of_not_fatal hf, State.complete, he, hn]

/-- A glyph's address fits 16 bits for the whole byte, and FONT_BASE is 0 (R143). -/
theorem glyphAddr_toNat (d : Byte) : (glyphAddr d).toNat = 5 * d.toNat := by
  have := d.isLt
  rw [glyphAddr, fontBase, BitVec.toNat_ofNat]
  omega

/-- Settles O48: the zero extension of `nnn` and the glyph's address are the numbers of the statement. -/
theorem indexLoads : Obligations.IndexLoads := by
  intro nnn x s
  constructor
  · exact exec_writes_index rfl rfl rfl (zext12_toNat nnn)
  · exact exec_writes_index rfl rfl rfl (glyphAddr_toNat _)

/-- Settles O49: where the sum does not carry out of bit 15, the 16-bit sum is the sum. -/
theorem addIKeepsTheSumOrIsFatal : Obligations.AddIKeepsTheSumOrIsFatal := by
  intro x s
  refine ⟨fun hcarry => exec_of_fatal (if_pos hcarry), fun hfits => ?_⟩
  have hsum : (s.i + zext8 (s.getV x)).toNat = s.i.toNat + (s.getV x).toNat := by
    rw [BitVec.toNat_add, zext8_toNat, Nat.mod_eq_of_lt (Nat.lt_succ_of_le hfits)]
  exact exec_writes_index (if_neg (Nat.not_lt.2 hfits)) rfl rfl hsum

/-! ### What a transfer writes -/

/-- A stored byte reads back. -/
theorem State.storeBytes_readMem_inside (s : State) (a : Nat) (bs : List Byte) (k : Nat) (hk : k < bs.length)
    (h : a + bs.length ≤ memTop + 1) : (s.storeBytes a bs).readMem (a + k) = bs.getD k 0 := by
  rw [s.storeBytes_readMem a bs _ h, if_pos (by omega), Nat.add_sub_cancel_left]

section Transfers
variable (s : State) (x : Reg)

/-- The effect of an admitted `Bcd` puts digit `k` at `I + k` (R144). -/
theorem State.effect_bcd_readMem (k : Nat) (hk : k < 3) (h : s.i.toNat ≤ 0xFFD) :
    (s.effect (.bcd x)).readMem (s.i.toNat + k) = (bcdDigits (s.getV x)).getD k 0 :=
  s.storeBytes_readMem_inside s.i.toNat (bcdDigits (s.getV x)) k hk
    (by simp only [bcdDigits_length, memTop]; omega)

/-- The effect of an admitted `Store` puts `V[q]` at `I + q` (R145). -/
theorem State.effect_store_readMem (q : Reg) (hq : q.toNat ≤ x.toNat) (h : s.i.toNat + x.toNat ≤ 0xFFF) :
    (s.effect (.store x)).readMem (s.i.toNat + q.toNat) = s.getV q := by
  have hstore := s.storeBytes_readMem_inside s.i.toNat (s.regBlock (x.toNat + 1)) q.toNat
    (by rw [State.regBlock_length]; omega) (by rw [State.regBlock_length, memTop]; omega)
  rw [s.regBlock_getD _ _ (by omega), BitVec.ofNat_toNat, BitVec.setWidth_eq] at hstore
  exact hstore

/-- The effect of `Load` on the registers (R146). -/
theorem State.effect_load_getV (q : Reg) :
    (s.effect (.load x)).getV q = if q.toNat ≤ x.toNat then s.readMem (s.i.toNat + q.toNat) else s.getV q := by
  have hcount : x.toNat + 1 ≤ 16 := x.isLt
  rw [State.effect, State.setI_getV, s.loadBlock_getV _ hcount]
  simp only [Nat.lt_succ_iff]

/-- `Load` writes the registers, `I` and `pc` and nothing else (R146). -/
theorem State.complete_load_frame :
    s.complete (.load x) =
      { s with v := (s.complete (.load x)).v, i := (s.complete (.load x)).i, pc := (s.complete (.load x)).pc } := by
  rw [State.complete, State.effect, s.loadBlock_frame]
  rfl

/-- After an admitted `Store` or `Load`, `I` has advanced by the number of bytes moved (R140). -/
theorem State.indexAfter_block_toNat (h : s.i.toNat + x.toNat ≤ 0xFFF) :
    (s.indexAfter (x.toNat + 1)).toNat = s.i.toNat + x.toNat + 1 :=
  s.indexAfter_toNat (x.toNat + 1) (Nat.succ_le_succ h)

end Transfers

/-- Settles O50: within range the three digits are stored where `effect_bcd_readMem` says, and each fits a byte. -/
theorem bcdStoresThreeDigits : Obligations.BcdStoresThreeDigits := by
  intro x s
  refine ⟨fun hout => exec_of_fatal (if_pos (by omega)), fun hin => ?_⟩
  have hbyte := (s.getV x).isLt
  refine ⟨s.complete (.bcd x), exec_of_not_fatal (if_neg (by omega)), rfl, ?_, ?_, ?_, fun a ha => ?_, rfl⟩
  all_goals rw [State.complete, State.applyNext_readMem]
  · rw [← Nat.add_zero s.i.toNat, s.effect_bcd_readMem x 0 (by omega) hin]
    exact Nat.mod_eq_of_lt (by omega)
  · rw [s.effect_bcd_readMem x 1 (by omega) hin]
    exact Nat.mod_eq_of_lt (by omega)
  · rw [s.effect_bcd_readMem x 2 (by omega) hin]
    exact Nat.mod_eq_of_lt (by omega)
  · exact s.effect_bcd_readMem_outside x a ha

/-- Settles O51: within range the store completes, and its effect writes the block and advances `I`. -/
theorem storeCopiesRegistersAndAdvancesI : Obligations.StoreCopiesRegistersAndAdvancesI := by
  intro x s
  refine ⟨fun hout => exec_of_fatal (if_pos hout), fun hin => ?_⟩
  exact ⟨s.complete (.store x), exec_of_not_fatal (if_neg (Nat.not_lt.2 hin)), rfl,
    fun q hq => s.effect_store_readMem x q hq hin, s.effect_store_readMem_outside x, s.indexAfter_block_toNat x hin, rfl⟩

/-- Settles O52: within range the load completes, and its effect fills the registers and advances `I`. -/
theorem loadFillsRegistersAndAdvancesI : Obligations.LoadFillsRegistersAndAdvancesI := by
  intro x s
  refine ⟨fun hout => exec_of_fatal (if_pos hout), fun hin => ?_⟩
  have hframe := s.complete_load_frame x
  refine ⟨s.complete (.load x), exec_of_not_fatal (if_neg (Nat.not_lt.2 hin)), ?_, fun q hq => ?_, fun q hq => ?_,
    s.indexAfter_block_toNat x hin, hframe, fun a => ?_⟩
  · exact s.complete_pc_of_advance rfl
  · exact (s.effect_load_getV x q).trans (if_pos hq)
  · exact (s.effect_load_getV x q).trans (if_neg (Nat.not_le.2 hq))
  · rw [hframe]
    rfl

/-! ### The round trip -/

/-- Settles O33: the load reads, from `I` set back, the bytes the store put there (O51, O48, O52). -/
theorem storeThenLoadRestoresRegisters : Obligations.StoreThenLoadRestoresRegisters := by
  intro x nnn s hi hin
  obtain ⟨t, hstore, -, hblock, -, -, ht⟩ := (storeCopiesRegistersAndAdvancesI x s).2 hin
  obtain ⟨u, hset, hui, -, hu, humem⟩ := (indexLoads nnn x t).1
  have hback : u.i.toNat = s.i.toNat := hui.trans hi.symm
  obtain ⟨w, hload, -, hlow, hhigh, hwi, -, hwmem⟩ := (loadFillsRegistersAndAdvancesI x u).2 (hback.symm ▸ hin)
  rw [hback] at hlow hwi
  have hkept : ∀ q, u.getV q = s.getV q := fun q => by rw [hu, ht]; rfl
  have hrestored : ∀ q, w.getV q = s.getV q := fun q => by
    rcases Nat.lt_or_ge x.toNat q.toNat with hq | hq
    · exact (hhigh q hq).trans (hkept q)
    · rw [hlow q hq, humem, hblock q hq]
  exact ⟨t, u, w, hstore, hset, hload, State.v_ext w s hrestored, hwi, fun a => (hwmem a).trans (humem a)⟩

end Sys2Proof.Machine
end

section
/-!
The obligations on the display (43_display.md): what `Clear` and `Draw` do to the pixels and put on the channel, that no other
instruction touches either, and that a consumer of the channel keeps a frame equal to the display.
-/

namespace Sys2Proof.Machine

/-! ### A consumer's frame -/

theorem replay_append (frame : Display) (c d : List Batch) : replay frame (c ++ d) = replay (replay frame c) d :=
  List.foldl_append

/-- A pixel of the frame after a batch of zero records: dark where a record names it, as before elsewhere. -/
theorem pixel_applyBatch_of_zeros (frame : Display) (b : Batch) (hb : ∀ r ∈ b, r.value = false) (x : Fin 64) (y : Fin 32) :
    Display.pixel (applyBatch frame b) x y = if ⟨x, y, false⟩ ∈ b then false else Display.pixel frame x y := by
  induction b generalizing frame with
  | nil => rfl
  | cons r b ih =>
    obtain ⟨hr, hrest⟩ := List.forall_mem_cons.1 hb
    obtain ⟨rx, ry, v⟩ := r
    obtain rfl : v = false := hr
    refine (ih (Display.setPixel frame rx ry false) hrest).trans ?_
    rw [Display.pixel_setPixel]
    by_cases hmem : ⟨x, y, false⟩ ∈ b
    · simp [hmem]
    · simp [hmem]

/-- The batch of `Clear` blanks any frame. -/
theorem applyBatch_clearBatch (frame : Display) : applyBatch frame clearBatch = Display.blank := by
  refine Display.ext_pixel _ _ fun x y => ?_
  rw [pixel_applyBatch_of_zeros frame _ clearBatch_value, if_pos (mem_clearBatch x y), Display.pixel_blank]

/-! ### Toggling a list of pixels -/

section Toggling
variable (d : Display) {ps : List (Fin 64 × Fin 32)} (h : ps.Nodup)

theorem applyBatch_xorPixels (ps : List (Fin 64 × Fin 32)) : applyBatch d (xorPixels d ps).batch = (xorPixels d ps).disp :=
  applyBatch_foldl_xorPixel d ps ⟨d, false, []⟩ rfl

include h

theorem pixel_xorPixels_of_mem {x : Fin 64} {y : Fin 32} (hp : (x, y) ∈ ps) :
    Display.pixel (xorPixels d ps).disp x y = !Display.pixel d x y :=
  ((xorPixels_spec d ps h).1 x y).trans (if_pos hp)

theorem pixel_xorPixels_of_not_mem {x : Fin 64} {y : Fin 32} (hp : (x, y) ∉ ps) :
    Display.pixel (xorPixels d ps).disp x y = Display.pixel d x y :=
  ((xorPixels_spec d ps h).1 x y).trans (if_neg hp)

theorem xorPixels_collision_iff :
    (xorPixels d ps).collision = true ↔ ∃ x y, (x, y) ∈ ps ∧ Display.pixel d x y = true := by
  rw [(xorPixels_spec d ps h).2.1, List.any_eq_true, Prod.exists]

theorem xorPixels_batch :
    (xorPixels d ps).batch = ps.map fun p => ⟨p.1, p.2, !Display.pixel d p.1 p.2⟩ :=
  (xorPixels_spec d ps h).2.2

/-- A record of the batch holds its pixel's new value, which is not the old one. -/
theorem value_of_mem_xorPixels_batch {r : PixelUpdate} (hr : r ∈ (xorPixels d ps).batch) :
    Display.pixel (xorPixels d ps).disp r.x r.y = r.value ∧ Display.pixel d r.x r.y = !r.value := by
  rw [xorPixels_batch d h] at hr
  obtain ⟨p, hp, rfl⟩ := List.mem_map.1 hr
  exact ⟨pixel_xorPixels_of_mem d h hp, (Bool.not_not _).symm⟩

/-- Toggling the same pixels again restores the display. -/
theorem xorPixels_twice_disp : (xorPixels (xorPixels d ps).disp ps).disp = d := by
  refine Display.ext_pixel _ _ fun x y => ?_
  by_cases hp : (x, y) ∈ ps
  · rw [pixel_xorPixels_of_mem _ h hp, pixel_xorPixels_of_mem d h hp, Bool.not_not]
  · rw [pixel_xorPixels_of_not_mem _ h hp, pixel_xorPixels_of_not_mem d h hp]

/-- The second toggle collides iff the first lit a pixel that was dark. -/
theorem xorPixels_twice_collision_iff :
    (xorPixels (xorPixels d ps).disp ps).collision = true ↔ ∃ x y, (x, y) ∈ ps ∧ Display.pixel d x y = false := by
  rw [xorPixels_collision_iff _ h]
  refine exists₂_congr fun x y => and_congr_right fun hp => ?_
  rw [pixel_xorPixels_of_mem d h hp, Bool.not_eq_true']

/-- The second toggle reports the same pixels in the same order with complemented values. -/
theorem xorPixels_twice_batch :
    (xorPixels (xorPixels d ps).disp ps).batch = (xorPixels d ps).batch.map fun r => { r with value := !r.value } := by
  rw [xorPixels_batch _ h, xorPixels_batch d h, List.map_map]
  refine List.map_congr_left fun p hp => ?_
  rw [pixel_xorPixels_of_mem d h hp]
  rfl

end Toggling

/-! ### What an instruction does to the display and the channel -/

section Frames
variable (s : State)

@[simp] theorem State.useKey_disp (x : Reg) : (s.useKey x).disp = s.disp := by rw [s.useKey_frame x]
@[simp] theorem State.useKey_channel (x : Reg) : (s.useKey x).channel = s.channel := by rw [s.useKey_frame x]
@[simp] theorem State.takeKey_disp (x : Reg) : (s.takeKey x).disp = s.disp := by rw [s.takeKey_frame x]
@[simp] theorem State.takeKey_channel (x : Reg) : (s.takeKey x).channel = s.channel := by rw [s.takeKey_frame x]
@[simp] theorem State.loadBlock_disp (n : Nat) : (s.loadBlock n).disp = s.disp := by rw [s.loadBlock_frame n]
@[simp] theorem State.loadBlock_channel (n : Nat) : (s.loadBlock n).channel = s.channel := by rw [s.loadBlock_frame n]

/-- Only `Clear` and `Draw` have an effect on the display or the channel (R160). -/
theorem State.effect_disp_channel {i : Instr} (h : ¬ writesDisplay i) :
    (s.effect i).disp = s.disp ∧ (s.effect i).channel = s.channel := by
  cases i
  case clear => exact absurd (.inl rfl) h
  case draw x y n => exact absurd (.inr ⟨x, y, n, rfl⟩) h
  all_goals simp [State.effect]

end Frames

section Draw
variable {s : State} (x y : Reg) (n : Nibble)

/-- The pixels under the 1 bits of the sprite of `Draw(x, y, n)`, in sprite order. -/
def State.drawnPixels (s : State) (x y : Reg) (n : Nibble) : List (Fin 64 × Fin 32) :=
  s.spritePixels (s.getV x) (s.getV y) n.toNat

theorem State.drawResult_eq (s : State) : s.drawResult x y n = xorPixels s.disp (s.drawnPixels x y n) := rfl

theorem State.drawnPixels_nodup (s : State) : (s.drawnPixels x y n).Nodup :=
  s.spritePixels_nodup _ _ _ (by have := n.isLt; omega)

theorem State.spriteHits_iff_mem_drawnPixels (s : State) (px : Fin 64) (py : Fin 32) :
    s.SpriteHits (s.getV x) (s.getV y) n.toNat px py ↔ (px, py) ∈ s.drawnPixels x y n :=
  s.spriteHits_iff ..

/-- A `Draw` that does not raise: the sprite is inside memory, or has no rows (R164). -/
theorem exec_draw_of_inside (h : n.toNat = 0 ∨ s.i.toNat + n.toNat - 1 ≤ 0xFFF) :
    exec (.draw x y n) s = .next (s.complete (.draw x y n)) :=
  exec_of_not_fatal (if_neg (by omega))

@[simp] theorem State.complete_draw_disp (s : State) :
    (s.complete (.draw x y n)).disp = (xorPixels s.disp (s.drawnPixels x y n)).disp := rfl

@[simp] theorem State.complete_draw_channel (s : State) :
    (s.complete (.draw x y n)).channel = s.channel ++ [(xorPixels s.disp (s.drawnPixels x y n)).batch] := rfl

theorem State.complete_draw_vf (s : State) :
    (s.complete (.draw x y n)).getV vf = flagByte (xorPixels s.disp (s.drawnPixels x y n)).collision := by
  simp [State.complete, State.effect, State.drawResult_eq]

theorem State.complete_draw_getV_ne (s : State) (q : Reg) (hq : q ≠ vf) : (s.complete (.draw x y n)).getV q = s.getV q := by
  simp [State.complete, State.effect_getV s q (i := .draw x y n) hq]

theorem flagByte_eq_one_iff (c : Bool) : flagByte c = 0x01 ↔ c = true := by
  cases c <;> decide

/-- The first `Draw` leaves the sprite and its place alone, so a second addresses the same pixels (R166). -/
theorem State.drawnPixels_complete_draw (s : State) (hx : x ≠ vf) (hy : y ≠ vf) :
    (s.complete (.draw x y n)).drawnPixels x y n = s.drawnPixels x y n := by
  rw [State.drawnPixels, s.complete_draw_getV_ne x y n x hx, s.complete_draw_getV_ne x y n y hy]
  rfl

end Draw

/-- Settles O53: the batch of `Clear` is a grid, listed row by row. -/
theorem clearBlanksAndReportsEveryPixel : Obligations.ClearBlanksAndReportsEveryPixel := by
  intro s
  refine ⟨s.complete .clear, clearBatch, exec_of_not_fatal rfl, rfl, Display.pixel_blank, rfl, clearBatch_length,
    fun k hk => ?_, rfl, fun _ => rfl⟩
  rw [clearBatch_length] at hk
  rw [(List.getElem_eq_iff _).2 (clearBatch_getElem? k hk)]
  exact ⟨Nat.mod_mod k 64, Nat.mod_eq_of_lt (by omega), rfl⟩

/-- Settles O54: a sprite addresses no pixel twice, so its pixels are toggled as `xorPixels_spec` says. -/
theorem drawTogglesTheSprite : Obligations.DrawTogglesTheSprite := by
  intro x y n s
  refine ⟨fun hout => exec_of_fatal (if_pos hout), fun hin => ?_⟩
  have hnodup := s.drawnPixels_nodup x y n
  have hvf := s.complete_draw_vf x y n
  simp only [s.spriteHits_iff_mem_drawnPixels x y n]
  refine ⟨s.complete (.draw x y n), exec_draw_of_inside x y n hin, rfl, fun px py hp => ?_, fun px py hp => ?_, ?_, ?_, ?_,
    s.complete_draw_getV_ne x y n, rfl, fun _ => rfl⟩
  · exact pixel_xorPixels_of_mem s.disp hnodup hp
  · exact pixel_xorPixels_of_not_mem s.disp hnodup hp
  · exact hvf ▸ flagByte_eq_zero_or_one _
  · rw [← xorPixels_collision_iff s.disp hnodup, ← flagByte_eq_one_iff, ← hvf]
    rfl
  · rw [State.complete_draw_channel, xorPixels_batch s.disp hnodup, State.drawnPixels, State.spritePixels, List.map_flatMap]
    simp only [rowPixels, List.map_map]
    rfl

/-- Settles O34: the second `Draw` addresses the pixels of the first, and the `xorPixels_twice` lemmas apply. -/
theorem drawingTwiceRestoresTheDisplay : Obligations.DrawingTwiceRestoresTheDisplay := by
  intro x y n s hx hy hin
  have hin' : n.toNat = 0 ∨ s.i.toNat + n.toNat - 1 ≤ 0xFFF := hin.imp_left fun h => by rw [h]; rfl
  have hnodup := s.drawnPixels_nodup x y n
  have hsame := s.drawnPixels_complete_draw x y n hx hy
  have hvf := (s.complete (.draw x y n)).complete_draw_vf x y n
  simp only [s.spriteHits_iff_mem_drawnPixels x y n]
  refine ⟨s.complete (.draw x y n), (s.complete (.draw x y n)).complete (.draw x y n), _, exec_draw_of_inside x y n hin',
    exec_draw_of_inside x y n hin', ?_, ?_, rfl, ?_⟩
  · rw [State.complete_draw_disp, hsame, State.complete_draw_disp, xorPixels_twice_disp s.disp hnodup]
  · rw [← xorPixels_twice_collision_iff s.disp hnodup, ← flagByte_eq_one_iff, ← State.complete_draw_disp, ← hsame, ← hvf]
    rfl
  · rw [State.complete_draw_channel, hsame, State.complete_draw_disp, xorPixels_twice_batch s.disp hnodup]
    rfl

/-- Settles O24: a raise leaves the display and the channel; so does an effect other than `Clear`'s and `Draw`'s, and the batch of
either takes the display before to the display after. -/
theorem onlyClearAndDrawTouchTheDisplay : Obligations.OnlyClearAndDrawTouchTheDisplay := by
  refine ⟨fun i s t hh h => ?_, fun s t rom h => ?_⟩
  · rcases exec_cases h with ⟨c, -, -, -, -, rfl⟩ | ⟨-, rfl, hs⟩
    · exact ⟨fun _ => ⟨rfl, rfl⟩, fun _ hr => by simp at hr⟩
    · refine ⟨fun hquiet => ?_, fun hw _ => ?_⟩
      · have hi : ¬ writesDisplay i := hquiet.resolve_right (by simp [hs.halted, hh])
        simpa [State.complete] using s.effect_disp_channel hi
      · obtain rfl | ⟨x, y, n, rfl⟩ := hw
        · refine ⟨clearBatch, rfl, applyBatch_clearBatch s.disp, fun r hr => ⟨?_, fun hne => absurd rfl hne⟩⟩
          exact (Display.pixel_blank r.x r.y).trans (clearBatch_value r hr).symm
        · refine ⟨_, rfl, applyBatch_xorPixels s.disp _, fun r hr => ?_⟩
          obtain ⟨hnew, hold⟩ := value_of_mem_xorPixels_batch s.disp (s.drawnPixels_nodup x y n) hr
          exact ⟨hnew, fun _ => hold⟩
  · simp only [agentStep, State.resetWith] at h
    split_ifs at h
    exact Host.Outcome.next.inj h ▸ rfl

/-! ### The consumer's frame along a step -/

section Consumer
variable {frame : Display}

@[simp] theorem endCycle_disp (t : State) : (endCycle t).disp = t.disp := by
  unfold endCycle
  split <;> rfl

@[simp] theorem endCycle_channel (t : State) : (endCycle t).channel = t.channel := by
  unfold endCycle
  split <;> rfl

/-- An execution keeps the replayed frame equal to the display: it leaves both alone, or emits the batch that takes the display
before to the display after. -/
theorem replay_exec {i : Instr} {s t : State} (hh : s.halted = false) (he : exec i s = .next t)
    (hs : replay frame s.channel = s.disp) : replay frame t.channel = t.disp := by
  obtain ⟨hquiet, hemits⟩ := onlyClearAndDrawTouchTheDisplay.1 i s t hh he
  by_cases hw : writesDisplay i ∧ t.halted = false
  · obtain ⟨b, hchannel, hb, -⟩ := hemits hw.1 hw.2
    rw [hchannel, replay_append, hs]
    exact hb
  · obtain ⟨hdisp, hchannel⟩ := hquiet ((not_and_or.1 hw).imp_right (by simp))
    rw [hchannel, hdisp, hs]

/-- Taking the oldest batch first and the others after it is taking them all. -/
theorem replay_take_one_tail (c : List Batch) : replay (replay frame (c.take 1)) c.tail = replay frame c := by
  cases c <;> rfl

/-- Each shape of a step keeps the replayed frame equal to the display. -/
theorem StepShape.replay_eq_disp {a : AgentStep} {u t : State} (h : StepShape a u t)
    (hu : replay frame u.channel = u.disp) : replay (frameAfter frame a u) t.channel = t.disp := by
  cases h
  case idlePoll ha ht | fetchFault ha _ _ ht | timingLost ha _ _ _ ht | tick ha ht | disconnect ha ht | press _ ha ht =>
    subst ha ht
    exact hu
  case unrecognised ha _ _ _ ht =>
    subst ha ht
    rw [endCycle_disp, endCycle_channel]
    exact hu
  case executed ha hh _ i _ v he ht =>
    subst ha ht
    rw [endCycle_disp, endCycle_channel]
    exact replay_exec (s := { u with tickPending := false }) hh he hu
  case drain ha ht =>
    subst ha ht
    exact (replay_take_one_tail u.channel).trans hu
  case reset rom ha _ ht =>
    subst ha ht
    rfl

end Consumer

/-- Settles O23: taking the turn off the agenda touches neither the channel nor the display, and each shape of a step keeps the
frame. -/
theorem consumerReconstructsTheDisplay : Obligations.ConsumerReconstructsTheDisplay := by
  intro s t frame hs hstep
  have hshape := step_shape s t hstep
  rw [s.turn_frame] at hshape
  exact hshape.replay_eq_disp hs

end Sys2Proof.Machine
end

section
/-!
The obligations on keys and timers (44_keys_timers.md): the two key tests, the wait for a key, and the moves of `DT` and `ST`.
-/

namespace Sys2Proof.Machine

/-! ### Key tests -/

section KeyTest
variable {x : Reg} {k : KeyId} {s : State}

/-- A test of a pressed key uses up one press and takes its first next-PC behaviour (R171, R172). -/
theorem testKey_of_pressed (hx : (s.getV x).toNat = k.toNat) (hk : 0 < s.key k) (onPressed onNot : NextPc) :
    testKey x onPressed onNot s = .next ((s.consumeKey k).applyNext onPressed) := by
  simp only [testKey, (s.keyOperand_some x k).2 hx, if_pos hk]

/-- A test of a key that is not pressed takes its second next-PC behaviour and nothing more (R171, R172). -/
theorem testKey_of_not_pressed (hx : (s.getV x).toNat = k.toNat) (hk : s.key k = 0) (onPressed onNot : NextPc) :
    testKey x onPressed onNot s = .next (s.applyNext onNot) := by
  simp only [testKey, (s.keyOperand_some x k).2 hx, if_neg hk.not_gt]

end KeyTest

/-- Settles O55: both instructions are one key test, with the two next-PC behaviours exchanged. -/
theorem keySkipsConsumeOnePress : Obligations.KeySkipsConsumeOnePress := by
  intro x k s
  refine ⟨fun hout => ⟨exec_of_fatal (if_pos hout), exec_of_fatal (if_pos hout)⟩, fun hx hk => ?_, fun hx hk => ?_⟩
  · obtain ⟨hlow, hothers⟩ := s.consumeKey_lowers_one k hk
    exact ⟨_, _, testKey_of_pressed hx hk .skip .advance, testKey_of_pressed hx hk .advance .skip, hlow, hothers, rfl, rfl,
      fun _ => rfl, rfl, rfl, rfl, fun _ => rfl⟩
  · exact ⟨_, _, testKey_of_not_pressed hx hk .skip .advance, testKey_of_not_pressed hx hk .advance .skip, rfl, rfl,
      fun _ => rfl, rfl, rfl, fun _ => rfl⟩

/-! ### The wait for a key -/

/-- With a lowest pressed key, `WaitKey` writes it to `V[x]`, uses up one press of it, and advances (R173). -/
theorem exec_waitKey_of_firstPressed {x : Reg} {k : KeyId} {s : State} (h : s.firstPressed = some k) :
    exec (.waitKey x) s = .next (((s.setV x (k.setWidth 8)).consumeKey k).applyNext .advance) := by
  rw [exec_of_not_fatal rfl, State.complete, State.effect, State.nextPc, State.takeKey, h]
  rfl

/-- A key's number fits the byte it is written to. -/
theorem keyByte_toNat (k : KeyId) : (k.setWidth 8).toNat = k.toNat :=
  BitVec.toNat_setWidth_of_le (by decide)

/-- Settles O56: the key of the statement is the first pressed one, and with none pressed the wait stalls. -/
theorem waitKeyTakesTheLowestKeyOrStalls : Obligations.WaitKeyTakesTheLowestKeyOrStalls := by
  intro x s
  refine ⟨fun k hk hlowest => ?_, fun hnone => ?_⟩
  · obtain ⟨hlow, hothers⟩ := (s.setV x (k.setWidth 8)).consumeKey_lowers_one k hk
    refine ⟨_, exec_waitKey_of_firstPressed ((s.firstPressed_some k).2 ⟨hk, hlowest⟩), ?_, hlow, hothers, fun q hq => ?_, rfl, rfl,
      fun _ => rfl⟩
    · rw [State.applyNext_getV, State.consumeKey_getV, State.getV_setV_self, keyByte_toNat]
    · rw [State.applyNext_getV, State.consumeKey_getV, State.getV_setV_ne _ _ _ _ hq]
  · rw [exec_of_not_fatal rfl, s.complete_waitKey_stalled x hnone]

/-! ### Timers -/

/-- The tone is on exactly while `ST` is not 0 (60_exceptions.md R220). -/
theorem State.tone_iff (s : State) : s.tone = true ↔ s.st ≠ 0x00 := by
  rw [State.tone, decide_eq_true_iff, Nat.pos_iff_ne_zero]
  exact not_congr (BitVec.toNat_eq (y := 0x00)).symm

/-- Settles O57: `ReadDelay` writes one register, and the other two write one timer and advance. -/
theorem timerMoves : Obligations.TimerMoves := by
  intro x s
  refine ⟨exec_writes_register rfl rfl rfl, ?_, ?_⟩
  · exact ⟨_, exec_of_not_fatal rfl, rfl, rfl, rfl, rfl, fun _ => rfl⟩
  · exact ⟨_, exec_of_not_fatal rfl, rfl, rfl, rfl, State.tone_iff _, rfl, fun _ => rfl⟩

end Sys2Proof.Machine
end

section
/-!
The obligations on exceptions, ticks and collaborators (60_exceptions.md): how an instruction raises and what the halt state keeps,
what one step of each agent does, and the timer decrement.
-/

namespace Sys2Proof.Machine

/-! ### Raising a fatal condition -/

/-- Settles O12: of the two answers of an execution only the raise is halted, and it is the record of R204. -/
theorem fatalEntryIsPrecise : Obligations.FatalEntryIsPrecise := by
  intro i s t hh h hr
  rcases exec_cases h with ⟨c, -, hc, -, -, rfl⟩ | ⟨-, -, hs⟩
  · exact ⟨hc, rfl⟩
  · simp [hs.halted, hh] at hr

/-- Settles O13: an execution raises the cause of its fatal condition, and without one keeps the control state. -/
theorem instructionsRaiseExactlyTheirCause : Obligations.InstructionsRaiseExactlyTheirCause := by
  intro i s t hh h
  rcases exec_cases h with ⟨c, hf, -, -, -, rfl⟩ | ⟨hf, -, hs⟩
  · exact ⟨fun c' hf' => ⟨rfl, Option.some.inj (hf.symm.trans hf')⟩, fun hn => by simp [hf] at hn⟩
  · exact ⟨fun c hf' => by simp [hf] at hf', fun _ => ⟨hs.halted.trans hh, hs.faultCause, hs.faultPc, hs.faultWord, hs.diag⟩⟩

/-! ### The halt state -/

/-- A reset has the turn only from the agenda: no idle turn is one. -/
theorem State.turn_ne_reset {s : State} (h : ∀ rom rest, s.agenda ≠ .reset rom :: rest) (rom : List Byte) :
    s.turn.1 ≠ .reset rom := by
  cases ha : s.agenda with
  | nil =>
    rw [s.turn_nil ha, State.idleTurn]
    split <;> simp
  | cons a rest =>
    rw [s.turn_cons a rest ha]
    exact fun e => h rom rest (ha.trans (congrArg (· :: rest) e))

theorem State.key_le_key_press (s : State) (k j : KeyId) : s.key j ≤ (s.press k).key j := by
  rw [State.key_press]
  split_ifs with h
  · exact h ▸ Nat.le_succ _
  · exact le_rfl

/-- Settles O14: a poll changes nothing, and each other agent's step writes only its own field. -/
theorem haltedCoreTakesNoCycle : Obligations.HaltedCoreTakesNoCycle := by
  intro s hh hr
  have hreset := State.turn_ne_reset hr
  rw [step, s.turn_frame]
  cases ha : s.turn.1 with
  | poll => exact ⟨_, poll_halted _ hh, hh, rfl, .inl rfl, id, id, fun _ => le_rfl⟩
  | tick => exact ⟨_, agentStep_tick _, hh, rfl, .inl rfl, fun hp => by simp [hp], id, fun _ => le_rfl⟩
  | disconnect => exact ⟨_, agentStep_disconnect _, hh, rfl, .inl rfl, id, fun _ => rfl, fun _ => le_rfl⟩
  | press k => exact ⟨_, agentStep_press _ k, hh, rfl, .inl rfl, id, id, fun j => State.key_le_key_press _ k j⟩
  | drain => exact ⟨_, agentStep_drain _, hh, rfl, .inr rfl, id, id, fun _ => le_rfl⟩
  | reset rom => exact absurd ha (hreset rom)

/-! ### The Timing Source -/

/-- Settles O15: the source is not lost, so its tick sets the latch. -/
theorem tickIsLatched : Obligations.TickIsLatched := by
  intro s rest hturn hl
  rw [step_of_tickTurn s rest hturn, State.tick, hl, Bool.not_false, Bool.or_true]

@[simp] theorem endCycle_tickPending (t : State) : (endCycle t).tickPending = t.tickPending := by
  unfold endCycle
  split <;> rfl

@[simp] theorem endCycle_tickLost (t : State) : (endCycle t).tickLost = t.tickLost := by
  unfold endCycle
  split <;> rfl

/-- With the Timing Source lost, no shape of a step but a reset brings it back or makes a tick pending (R218). -/
theorem StepShape.stays_lost {a : AgentStep} {u t : State} (h : StepShape a u t) (hl : u.tickLost = true)
    (ha : ∀ rom, a ≠ .reset rom) : t.tickLost = true ∧ (t.tickPending = true → u.tickPending = true) := by
  cases h with
  | idlePoll _ ht =>
    subst ht
    exact ⟨hl, id⟩
  | fetchFault _ _ _ ht => exact ht ▸ ⟨hl, nofun⟩
  | timingLost _ _ _ _ ht => exact ht ▸ ⟨hl, id⟩
  | unrecognised _ _ _ _ ht =>
    subst ht
    rw [endCycle_tickLost, endCycle_tickPending]
    exact ⟨hl, nofun⟩
  | executed _ _ _ i _ v he ht =>
    obtain ⟨-, -, -, -, hpending, hlost, -⟩ := specialRegistersHaveTheirWriters i _ v he
    subst ht
    rw [endCycle_tickLost, endCycle_tickPending, hlost, hpending]
    exact ⟨hl, nofun⟩
  | tick _ ht => exact ht ▸ ⟨hl, fun hp => by simpa [hl] using hp⟩
  | disconnect _ ht => exact ht ▸ ⟨rfl, id⟩
  | press k _ ht => exact ht ▸ ⟨hl, id⟩
  | drain _ ht => exact ht ▸ ⟨hl, id⟩
  | reset rom hreset _ _ => exact absurd hreset (ha rom)

/-- Settles O16: a disconnect step is one operation, and taking the turn off the agenda touches neither latch. -/
theorem disconnectionIsForGood : Obligations.DisconnectionIsForGood := by
  refine ⟨fun s rest h => step_cons s _ rest h, fun s t hl hr hstep => ?_⟩
  have hshape := step_shape s t hstep
  rw [s.turn_frame] at hshape
  exact hshape.stays_lost hl (State.turn_ne_reset hr)

/-! ### The timer decrement -/

section Timers
variable {s : State} {d : Nat}

theorem State.timerTick_of_not_due (h : s.tdiv + 1 ≠ d) : s.timerTick d = { s with tdiv := s.tdiv + 1 } := by
  have hdue : ¬ s.timersDue d = true := mt (s.timersDue_iff d).1 h
  simp only [State.timerTick, if_neg hdue]

theorem State.timerTick_of_due (h : s.tdiv + 1 = d) :
    s.timerTick d = { s with tdiv := 0, dt := countDown s.dt, st := countDown s.st } := by
  simp only [State.timerTick, if_pos ((s.timersDue_iff d).2 h)]

end Timers

/-- Settles O20: the prescaler wraps or counts, and a timer that goes down stops at 0. -/
theorem timersCountObservedTicks : Obligations.TimersCountObservedTicks := by
  intro d s hlt
  refine ⟨fun h => State.timerTick_of_not_due h.ne, fun h => ?_, ?_⟩
  · exact ⟨_, State.timerTick_of_due h, rfl, countDown_toNat s.dt, countDown_toNat s.st⟩
  · by_cases h : s.tdiv + 1 = d
    · rw [State.timerTick_of_due h]
      exact Nat.zero_lt_of_lt hlt
    · rw [State.timerTick_of_not_due h]
      exact lt_of_le_of_ne hlt h

/-! ### The poll and the cycle -/

/-- Settles O5: the step is the cycle that executes what is decoded, and what follows an execution is the timer logic. -/
theorem stepRunsTheDecodedInstruction : Obligations.StepRunsTheDecodedInstruction := by
  intro s rest i hturn hp hd
  obtain ⟨-, hwf, -⟩ := decodedOperandsAreTheFields _ i (decode_fetchedWord_of_decodeBytes hd)
  obtain ⟨t, ht⟩ := exec_next i (s.atCycle rest)
  refine ⟨hwf, ?_⟩
  rw [step_of_cycleTurn_decoded hturn hp hd, ht]
  rw [State.atCycle] at ht
  rw [ht]
  rfl

/-- Settles O7: the whole effect of an unrecognised word (O8) touches no halt register. -/
theorem decodeFailureIsNoFault : Obligations.DecodeFailureIsNoFault := by
  intro s rest hturn hp hd
  have ⟨_, hrunning, _⟩ := hturn
  obtain ⟨t, hstep, hdiag, ht⟩ := unrecognisedOpcodeIsLoggedAndSkipped s rest hturn hp hd
  have hhalted := congrArg State.halted ht
  have hcause := congrArg State.faultCause ht
  have hfaultPc := congrArg State.faultPc ht
  have hword := congrArg State.faultWord ht
  exact ⟨t, _, hstep, hdiag, congrArg State.pc ht, hhalted.trans hrunning, hcause, hfaultPc, hword⟩

/-- Settles O10: the step is a poll, and each clause is one branch of it. -/
theorem pollChecksInOrder : Obligations.PollChecksInOrder := by
  intro s rest hturn
  rw [step_of_coreTurn s rest hturn]
  exact ⟨fun hh => poll_halted _ hh, fun hh ht => poll_pending _ hh ht, fun hh ht hl => poll_lost _ hh ht hl,
    fun hh ht hl => poll_idle _ hh ht hl⟩

/-! ### The input collaborator and the display consumer -/

/-- Settles O17: the step is the press, which sets one counter. -/
theorem pressCountsOneKey : Obligations.PressCountsOneKey := by
  intro s k rest h
  refine ⟨_, step_cons s _ rest h, rfl, ?_, fun j hj => ?_⟩
  · exact (State.key_press _ k k).trans (if_pos rfl)
  · exact (State.key_press _ k j).trans (if_neg hj)

/-- Settles O18: the step is the drain, which leaves the tail of the channel. -/
theorem drainTakesTheOldestBatch : Obligations.DrainTakesTheOldestBatch := by
  intro s rest h
  exact ⟨_, step_cons s _ rest h, rfl, fun _ _ hc => congrArg List.tail hc, fun hc => congrArg List.tail hc⟩

end Sys2Proof.Machine
end

section
/-!
The obligation on what a step may answer (70_reset_and_hazards.md R255): which agent steps have a next state, and the one refusal.
-/

namespace Sys2Proof.Machine

/-! ### A reset, by the length of its ROM -/

theorem State.resetWith_of_le (s : State) {rom : List Byte} (h : rom.length ≤ romMax) :
    s.resetWith rom = .next { State.reset with
      mem := Memory.writeList [] romBase rom, rndDraws := s.rndDraws, agenda := s.agenda } := if_pos h

theorem State.resetWith_of_lt (s : State) {rom : List Byte} (h : romMax < rom.length) :
    s.resetWith rom = .refused .romTooLong := if_neg (not_le.2 h)

/-! ### Every other agent's step has a next state -/

theorem cycle_next (s : State) : ∃ t, cycle s = .next t := by
  rcases lt_or_ge 0xFFE s.pc.toNat with hp | hp
  · exact ⟨_, cycle_fetch_fault s hp⟩
  · cases hd : decode s.fetchedWord with
    | none => exact ⟨_, cycle_unrecognised s hp hd⟩
    | some i =>
      obtain ⟨t, ht⟩ := exec_next i s
      exact ⟨endCycle t, (cycle_exec s i hp hd).trans (congrArg afterExec ht)⟩

theorem poll_next (s : State) : ∃ t, poll s = .next t := by
  cases hh : s.halted with
  | true => exact ⟨_, poll_halted s hh⟩
  | false =>
    cases ht : s.tickPending with
    | true => exact poll_pending s hh ht ▸ cycle_next _
    | false =>
      cases hl : s.tickLost with
      | true => exact ⟨_, poll_lost s hh ht hl⟩
      | false => exact ⟨_, poll_idle s hh ht hl⟩

theorem agentStep_next {a : AgentStep} (s : State) (h : ∀ rom, a = .reset rom → rom.length ≤ romMax) :
    ∃ t, agentStep a s = .next t := by
  cases a with
  | poll => exact poll_next s
  | tick => exact ⟨_, agentStep_tick s⟩
  | disconnect => exact ⟨_, agentStep_disconnect s⟩
  | press k => exact ⟨_, agentStep_press s k⟩
  | drain => exact ⟨_, agentStep_drain s⟩
  | reset rom => exact ⟨_, s.resetWith_of_le (h rom rfl)⟩

/-- A reset that has the turn is the head of the agenda. -/
theorem State.agenda_of_turn_eq_reset {s : State} {rom : List Byte} (h : s.turn.1 = .reset rom) :
    ∃ rest, s.agenda = .reset rom :: rest := by
  cases ha : s.agenda with
  | nil => exact absurd h (State.turn_ne_reset (by simp [ha]) rom)
  | cons a rest =>
    rw [s.turn_cons a rest ha] at h
    exact ⟨rest, congrArg (· :: rest) h⟩

/-! ### The refusal -/

/-- Settles O11: by whether a reset with a ROM above the cap is at the head of the agenda. It is refused if so; if not, whatever
agent has the turn answers a next state. -/
theorem onlyALongRomIsRefused : Obligations.OnlyALongRomIsRefused := by
  intro s
  by_cases hlong : ∃ rom rest, s.agenda = .reset rom :: rest ∧ romMax < rom.length
  · obtain ⟨rom, rest, ha, hlen⟩ := hlong
    exact .inr ⟨rom, rest, ha, hlen, (step_cons s _ rest ha).trans (State.resetWith_of_lt _ hlen)⟩
  · have hshort : ∀ rom rest, s.agenda = .reset rom :: rest → rom.length ≤ romMax :=
      fun rom rest ha => not_lt.1 fun hlen => hlong ⟨rom, rest, ha, hlen⟩
    refine .inl ⟨hshort, agentStep_next s.turn.2 fun rom hturn => ?_⟩
    obtain ⟨rest, ha⟩ := State.agenda_of_turn_eq_reset hturn
    exact hshort rom rest ha

end Sys2Proof.Machine
end
